-- ==== Sys2Proof/Config.lean ====
section
/-! DEFINITION. The implementation parameters of spec/00_scope.md R7, all ten. `Params` is the argument a model takes,
`hardware` the values of R7's third column, which this hardware takes.
The state is `State p` for a `Params` p, and every meaning and operation works at every p. `execFor` and `stepFor`
(Machine/AnyParams.lean) are the block at p. `exec` and `step` are the block at `hardware`.
Only `fifoN` comes from the source document. Every other value is the spec's own decision (D2, D32, D34 to D37).
The spec leaves no value free that a rule reads, so Config holds no opaque constant. -/

namespace Sys2Proof

/-! ## The values of this hardware -/

namespace Config

/-- TERM_CAP: characters one term buffer holds. -/
abbrev termCap : Nat := 64

/-- MAX_TOTAL: largest legal fragment count. -/
abbrev maxTotal : Nat := 9

/-- ID_MAX: largest legal sequential message id. -/
abbrev idMax : Nat := 255

/-- FIFO_N: entries of the reassembly FIFO. -/
abbrev fifoN : Nat := 10

/-- PR_CAP = MAX_TOTAL × TERM_CAP: characters of the payload register and of one FIFO entry buffer. -/
abbrev prCap : Nat := maxTotal * termCap

/-- W_MAX: widest GETU or GETS field in bits. -/
abbrev wMax : Nat := 32

/-- STR_MAX: most characters GETC returns. -/
abbrev strMax : Nat := 20

/-- VSLOTS: slots of the vessel-age table. -/
abbrev vslots : Nat := 32

/-- TS_W: width of a millisecond timestamp. -/
abbrev tsW : Nat := 32

/-- TO_W: width of the timeout in seconds. -/
abbrev toW : Nat := 16

/-- The largest fill-bit count: padding stays inside one 6-bit group (R138, spec/90_conflicts.md C6). No parameter of R7. -/
abbrev fillMax : Nat := 5

end Config

/-! ## The parameters as an argument -/

/-- The ten parameters of R7. PR_CAP is determined by two of them, so it is `Params.prCap`. -/
structure Params where
  /-- TERM_CAP. -/
  termCap : Nat
  /-- MAX_TOTAL. -/
  maxTotal : Nat
  /-- ID_MAX. -/
  idMax : Nat
  /-- FIFO_N. -/
  fifoN : Nat
  /-- W_MAX. -/
  wMax : Nat
  /-- STR_MAX. -/
  strMax : Nat
  /-- VSLOTS. -/
  vslots : Nat
  /-- TS_W. -/
  tsW : Nat
  /-- TO_W. -/
  toW : Nat
  deriving DecidableEq, Repr

/-- PR_CAP = MAX_TOTAL × TERM_CAP. -/
def Params.prCap (p : Params) : Nat := p.maxTotal * p.termCap

/-- The constraints R7 puts on the parameters. It puts none on TERM_CAP, STR_MAX, TS_W and TO_W themselves. -/
structure Params.Legal (p : Params) : Prop where
  /-- Every bit offset fits the 12-bit LO and HI fields. -/
  offsets : 6 * p.prCap ≤ 4095
  /-- An eviction mask fits the 32-bit result value. -/
  mask : p.vslots ≤ 32
  slots : p.vslots ≤ 256
  positions : p.fifoN ≤ 256
  ids : p.idMax ≤ 255
  width : p.wMax ≤ 32
  fragments : 2 ≤ p.maxTotal

/-- The parameters this hardware takes. -/
abbrev hardware : Params :=
  { termCap := Config.termCap
    maxTotal := Config.maxTotal
    idMax := Config.idMax
    fifoN := Config.fifoN
    wMax := Config.wMax
    strMax := Config.strMax
    vslots := Config.vslots
    tsW := Config.tsW
    toW := Config.toW }

end Sys2Proof
end

