-- ==== Sys2Proof/Word.lean ====
section
/-! DEFINITION. The word types of the block (spec/30_encoding.md R80 and R94, spec/00_scope.md R9). -/

namespace Sys2Proof

/-- A character: an 8-bit byte (R9). -/
abbrev Byte := BitVec 8

/-- A command word on the command port: always 64 bits (R80, R81). -/
abbrev CmdWord := BitVec 64

/-- The 32-bit `value` field of a result record (R94). -/
abbrev Value := BitVec 32

/-- A millisecond timestamp of TS_W bits (R7, R40). -/
abbrev Millis (p : Params := hardware) := BitVec p.tsW

/-- A timeout in seconds, of TO_W bits (R7, R42). -/
abbrev Seconds (p : Params := hardware) := BitVec p.toW

end Sys2Proof
end

