-- ==== Sys2Proof/Syntax.lean ====
section
/-! DEFINITION. The commands of the block: one constructor per row of spec/opcode_table.json (spec/30_encoding.md R83).
Operands are the fields of the row's format (R84 to R88), so an operand cannot exceed its field. The formats fix the fields'
widths as numbers, 32 bits of T (R87) and 16 of TIMEOUT (R88), whatever the parameters of R7 are. -/

namespace Sys2Proof

/-- One command of the block. -/
inductive Instr where
  /-- NOP (R270). -/
  | nop
  /-- RESET (R271). -/
  | reset
  /-- DECODE c: the received byte (R120). -/
  | decode (c : Byte)
  /-- C6 c: an armor character (R210). -/
  | c6 (c : Byte)
  /-- GETU lo, hi (R211). -/
  | getu (lo hi : BitVec 12)
  /-- GETS lo, hi (R212). -/
  | gets (lo hi : BitVec 12)
  /-- GETC lo, hi (R213). -/
  | getc (lo hi : BitVec 12)
  /-- SETCFG timeout, listmax (R240). -/
  | setcfg (timeout : BitVec 16) (listmax : BitVec 8)
  /-- TOUCH slot, t (R242). -/
  | touch (slot : BitVec 8) (t : BitVec 32)
  /-- AGE slot, now (R243). -/
  | age (slot : BitVec 8) (now : BitVec 32)
  /-- TICK now (R245): its SLOT field is not an operand, it must be 0 (R89). -/
  | tick (now : BitVec 32)
  /-- RDSLOT slot (R246): its T field is not an operand, it must be 0 (R89). -/
  | rdslot (slot : BitVec 8)
  /-- RDFIFO pos (R273): its T field is not an operand, it must be 0 (R89). -/
  | rdfifo (pos : BitVec 8)
  /-- RDPR (R214). -/
  | rdpr
  /-- The reserved opcode 0xE with its 60 other bits, whatever they are (R89 (a), R272). -/
  | reservedE (rest : BitVec 60)
  /-- The reserved opcode 0xF with its 60 other bits, whatever they are (R89 (a), R272). -/
  | reservedF (rest : BitVec 60)
  deriving DecidableEq, Repr

end Sys2Proof
end

