-- ==== Sys2Proof/WellFormed.lean ====
section
/-! DEFINITION. When a command is well formed.
Every operand fits its field by its type, so one check is left: the command's opcode is one the opcode map names
(spec/30_encoding.md R83 and R89 (a)).
The reserved opcodes 0xE and 0xF are terms of `Instr`, since the table has rows for them and they execute (R272), but
they are not well formed: their words are illegal.
The operand-fit check of the assembler (R105) is `AsmLine.fits` of Machine/Assembler.lean. -/

namespace Sys2Proof

/-- The command is one of the fourteen named commands: its word is legal (R83, R89). -/
def Instr.wellFormed (i : Instr) : Bool :=
  match i with
  | .reservedE _ => false
  | .reservedF _ => false
  | .nop => true
  | .reset => true
  | .decode _ => true
  | .c6 _ => true
  | .getu _ _ => true
  | .gets _ _ => true
  | .getc _ _ => true
  | .setcfg _ _ => true
  | .touch _ _ => true
  | .age _ _ => true
  | .tick _ => true
  | .rdslot _ => true
  | .rdfifo _ => true
  | .rdpr => true

end Sys2Proof
end

