-- ==== Sys2Proof/Decode.lean ====
section
/-! DEFINITION. The command word's decoder, total on all 64-bit words, and its encoder (spec/30_encoding.md R81 to R89).
A word outside the opcode table is refused by the name of the clause of R89 it breaks. -/

namespace Sys2Proof

/-- Why a word of a named opcode is illegal (R89). Clause (a), a reserved opcode, has its own constructors in `Instr`. -/
inductive Illegal where
  /-- R89 (b): a reserved bit of the word's format is 1. -/
  | reservedBit
  /-- R89 (c): TICK with SLOT ≠ 0. -/
  | tickSlot
  /-- R89 (d): RDSLOT or RDFIFO with T ≠ 0. -/
  | readTime
  deriving DecidableEq, Repr

/-- What the decoder answers. -/
inductive Decoded where
  /-- The word is this command. -/
  | instr (i : Instr)
  /-- The word is illegal, and why. -/
  | illegal (why : Illegal)
  deriving DecidableEq, Repr

/-! ## The fields of the formats (R82, R84 to R88) -/

/-- OP = bits 63-60. -/
def fieldOp (w : CmdWord) : BitVec 4 := w.extractLsb' 60 4

/-- C = bits 7-0, format B (R85). -/
def fieldC (w : CmdWord) : Byte := w.extractLsb' 0 8

/-- LO = bits 11-0, format X (R86). -/
def fieldLo (w : CmdWord) : BitVec 12 := w.extractLsb' 0 12

/-- HI = bits 27-16, format X (R86). -/
def fieldHi (w : CmdWord) : BitVec 12 := w.extractLsb' 16 12

/-- T = bits 31-0, format T (R87). -/
def fieldT (w : CmdWord) : BitVec 32 := w.extractLsb' 0 32

/-- SLOT = bits 39-32, format T (R87). -/
def fieldSlot (w : CmdWord) : BitVec 8 := w.extractLsb' 32 8

/-- TIMEOUT = bits 15-0, format G (R88). -/
def fieldTimeout (w : CmdWord) : BitVec 16 := w.extractLsb' 0 16

/-- LISTMAX = bits 23-16, format G (R88). -/
def fieldListmax (w : CmdWord) : BitVec 8 := w.extractLsb' 16 8

/-- The 60 bits below the opcode. -/
def fieldRest (w : CmdWord) : BitVec 60 := w.extractLsb' 0 60

/-! ## The reserved bits of each format (R82) -/

/-- Format N: bits 59-0 are reserved. -/
def reservedN : CmdWord := 0x0FFFFFFFFFFFFFFF#64

/-- Format B: bits 59-8 are reserved. -/
def reservedB : CmdWord := 0x0FFFFFFFFFFFFF00#64

/-- Format X: bits 59-28 and 15-12 are reserved. -/
def reservedX : CmdWord := 0x0FFFFFFFF000F000#64

/-- Format T: bits 59-40 are reserved. -/
def reservedT : CmdWord := 0x0FFFFF0000000000#64

/-- Format G: bits 59-24 are reserved. -/
def reservedG : CmdWord := 0x0FFFFFFFFF000000#64

/-- The word is command `i`, unless it sets a reserved bit of its format (R89 (b)). -/
def decodeWith (reserved : CmdWord) (w : CmdWord) (i : Instr) : Decoded :=
  if w &&& reserved = 0#64 then .instr i else .illegal .reservedBit

/-- TICK: its SLOT must be 0 (R89 (c)). -/
def decodeTick (w : CmdWord) : Decoded :=
  if w &&& reservedT ≠ 0#64 then .illegal .reservedBit
  else if fieldSlot w ≠ 0#8 then .illegal .tickSlot
  else .instr (.tick (fieldT w))

/-- RDSLOT and RDFIFO: their T must be 0 (R89 (d)). -/
def decodeRead (w : CmdWord) (i : Instr) : Decoded :=
  if w &&& reservedT ≠ 0#64 then .illegal .reservedBit
  else if fieldT w ≠ 0#32 then .illegal .readTime
  else .instr i

/-- The opcode map (R83), total on every 64-bit word. The last case is opcode 0xF, the one number left of a 4-bit field. -/
def decodeWord (w : CmdWord) : Decoded :=
  match (fieldOp w).toNat with
  | 0x0 => decodeWith reservedN w .nop
  | 0x1 => decodeWith reservedN w .reset
  | 0x2 => decodeWith reservedB w (.decode (fieldC w))
  | 0x3 => decodeWith reservedB w (.c6 (fieldC w))
  | 0x4 => decodeWith reservedX w (.getu (fieldLo w) (fieldHi w))
  | 0x5 => decodeWith reservedX w (.gets (fieldLo w) (fieldHi w))
  | 0x6 => decodeWith reservedX w (.getc (fieldLo w) (fieldHi w))
  | 0x7 => decodeWith reservedG w (.setcfg (fieldTimeout w) (fieldListmax w))
  | 0x8 => decodeWith reservedT w (.touch (fieldSlot w) (fieldT w))
  | 0x9 => decodeWith reservedT w (.age (fieldSlot w) (fieldT w))
  | 0xA => decodeTick w
  | 0xB => decodeRead w (.rdslot (fieldSlot w))
  | 0xC => decodeRead w (.rdfifo (fieldSlot w))
  | 0xD => decodeWith reservedN w .rdpr
  | 0xE => .instr (.reservedE (fieldRest w))
  | _ => .instr (.reservedF (fieldRest w))

/-! ## The encoder: the formats of R82, most significant field first, every other bit 0 (R105) -/

/-- Format N. -/
def encodeN (op : BitVec 4) : CmdWord := op ++ 0#60

/-- Format B. -/
def encodeB (op : BitVec 4) (c : Byte) : CmdWord := op ++ (0#52 ++ c)

/-- Format X. -/
def encodeX (op : BitVec 4) (lo hi : BitVec 12) : CmdWord := op ++ (0#32 ++ (hi ++ (0#4 ++ lo)))

/-- Format T. -/
def encodeT (op : BitVec 4) (slot : BitVec 8) (t : BitVec 32) : CmdWord := op ++ (0#20 ++ (slot ++ t))

/-- Format G. -/
def encodeG (op : BitVec 4) (timeout : BitVec 16) (listmax : BitVec 8) : CmdWord :=
  op ++ (0#36 ++ (listmax ++ timeout))

/-- The word of a command (R82, R83, R105). -/
def encode (i : Instr) : CmdWord :=
  match i with
  | .nop => encodeN 0x0#4
  | .reset => encodeN 0x1#4
  | .decode c => encodeB 0x2#4 c
  | .c6 c => encodeB 0x3#4 c
  | .getu lo hi => encodeX 0x4#4 lo hi
  | .gets lo hi => encodeX 0x5#4 lo hi
  | .getc lo hi => encodeX 0x6#4 lo hi
  | .setcfg timeout listmax => encodeG 0x7#4 timeout listmax
  | .touch slot t => encodeT 0x8#4 slot t
  | .age slot now => encodeT 0x9#4 slot now
  | .tick now => encodeT 0xA#4 0#8 now
  | .rdslot slot => encodeT 0xB#4 slot 0#32
  | .rdfifo pos => encodeT 0xC#4 pos 0#32
  | .rdpr => encodeN 0xD#4
  | .reservedE rest => 0xE#4 ++ rest
  | .reservedF rest => 0xF#4 ++ rest

/-! ## The host's reading of a table row -/

/-- The command word whose low `nbits` bits are those of `w` and whose other bits are 0. -/
def tableWord (nbits w : Nat) : CmdWord := BitVec.ofNat 64 (w % 2 ^ nbits)

/-- The command this decoder reads from the word `w` of `nbits` bits, none where the word is illegal (R89). -/
def decodeTableWord (nbits w : Nat) : Option Instr :=
  match decodeWord (tableWord nbits w) with
  | .instr i => some i
  | .illegal _ => none

end Sys2Proof
end

