-- ==== Sys2Proof/Machine/State.lean ====
section
/-! DEFINITION. The state of the block: the six groups of spec/10_state.md R20, and beside them the two queues of the
command port that are the model's own (notes/assumptions/2.md). The types whose width or size is a parameter of
spec/00_scope.md R7 take the parameters, with this hardware's as their default.
Buffers hold their valid bytes only, so each length register is the length of its buffer (notes/assumptions/1.md). -/

namespace Sys2Proof.Machine

/-! ## Codes -/

/-- The status codes a command returns (R95). The reserved codes 0xD to 0xF are never returned and have no name here
(spec/93_implementation_defined.md U6). -/
inductive Status where
  | ok
  | fragment
  | ignored
  | errTerm
  | errFormat
  | errHex
  | errChecksum
  | errNoPayload
  | errArmor
  | errRange
  | errLength
  | errSlot
  | errOpcode
  deriving DecidableEq, Repr

/-- The reassembly outcomes (R96). The reserved code 7 is never returned and has no name here. -/
inductive Rstat where
  | none
  | single
  | new
  | newEvict
  | append
  | complete
  | discard
  deriving DecidableEq, Repr

/-- The legal values of `fr_why`, the failure cause (R23). -/
inductive Cause where
  | ok
  | ignored
  | errTerm
  | errFormat
  | errHex
  | errChecksum
  deriving DecidableEq, Repr

/-- The result record `{status, value, rstat, str}` (R94). `str` holds STR_MAX bytes. -/
structure Result where
  status : Status
  value : Value
  rstat : Rstat
  str : List Byte
  deriving DecidableEq, Repr

/-! ## The six state groups (R20) -/

/-- Group 1, the framer registers (R21 to R26). -/
structure Framer where
  /-- `fr_done`: the framer is idle (R21). -/
  done : Bool
  /-- `fr_cks`: the first `*` has been seen (R22). -/
  cks : Bool
  /-- `fr_why`: the first failure of the sentence (R23). -/
  why : Cause
  /-- `fr_tidx`: the term index, saturating at 7 (R24). -/
  tidx : BitVec 3
  /-- `fr_tbuf[0 .. fr_tlen)`, oldest byte first. `fr_tlen` is its length (R25). A length past the 7 bits of R25, at a TERM_CAP
  above 127, is the model's DESIGN CHOICE (notes/assumptions/5.md). -/
  tbuf : List Byte
  /-- `fr_tovf`: a byte arrived while the term buffer was full (R25). -/
  tovf : Bool
  /-- `fr_acc`: the checksum accumulator (R26). -/
  acc : Byte
  deriving DecidableEq, Repr

/-- Group 2, the staging registers (R27). -/
structure Staging where
  /-- `st_total`. -/
  total : BitVec 4
  /-- `st_num`. -/
  num : BitVec 4
  /-- `st_idp`: term 3 was not empty. -/
  idp : Bool
  /-- `st_id`. -/
  id : Byte
  /-- `st_pay[0 .. st_plen)`. `st_plen` is its length. A length past the 7 bits of R27, at a TERM_CAP above 127, is the model's
  DESIGN CHOICE (notes/assumptions/5.md). -/
  pay : List Byte
  /-- `st_fill`. -/
  fill : BitVec 3
  deriving DecidableEq, Repr

/-- Groups 1 and 2 together: the sentence in progress. Only DECODE and RESET write it (R47). -/
structure Sentence where
  fr : Framer
  st : Staging
  deriving DecidableEq, Repr

/-- One entry of the reassembly FIFO: one in-flight message (R33). -/
structure Partial where
  /-- `e.id`. -/
  id : Byte
  /-- `e.total`. -/
  total : BitVec 4
  /-- `e.next`: the fragment number expected next. -/
  next : BitVec 4
  /-- `e.cnt`: the fragments appended so far. -/
  cnt : BitVec 4
  /-- `e.buf[0 .. e.blen)`. `e.blen` is its length. -/
  buf : List Byte
  deriving DecidableEq, Repr

/-- Group 4, the payload register (R35). -/
structure Payload where
  /-- `pr_valid`. -/
  valid : Bool
  /-- `pr_fill`. -/
  fill : BitVec 3
  /-- `pr_buf[0 .. pr_len)`. `pr_len` is its length. -/
  buf : List Byte
  deriving DecidableEq, Repr

/-- One slot of the vessel-age table (R40). -/
structure Slot (p : Params := hardware) where
  /-- `vt_live[s]`. -/
  live : Bool
  /-- `vt_last[s]`, milliseconds. -/
  last : Millis p
  deriving DecidableEq, Repr

/-- Group 6, the configuration registers (R42). -/
structure Cfg (p : Params := hardware) where
  /-- `cfg_timeout`, seconds. -/
  timeout : Seconds p
  /-- `cfg_listmax`, slots. -/
  listmax : BitVec 8
  deriving DecidableEq, Repr

/-- The block with the parameters `p` and its command port. `State` alone is the state of this hardware. -/
structure State (p : Params := hardware) where
  /-- Groups 1 and 2. -/
  sentence : Sentence
  /-- Group 3, the reassembly FIFO, oldest entry first. `fifo_cnt` is its length (R32). -/
  fifo : List Partial
  /-- Group 4. -/
  payload : Payload
  /-- Group 5, the vessel-age table of VSLOTS slots, slot 0 first. -/
  vessels : Vector (Slot p) p.vslots
  /-- Group 6. -/
  cfg : Cfg p
  /-- The model's own: the command words the host has issued and the block has not yet taken, first one first
  (R80, R334). -/
  pending : List CmdWord
  /-- The model's own: the result records returned so far, first one first (R94, R334). No rule reads it. -/
  results : List Result
  deriving DecidableEq, Repr

/-! ## Reset (R320) -/

/-- The framer registers after a sentence reset with completion value `done` (R28), and after reset with `done = true`
(R320). -/
def Framer.cleared (done : Bool) : Framer :=
  { done := done, cks := false, why := .ok, tidx := 0#3, tbuf := [], tovf := false, acc := 0x00#8 }

/-- The staging registers at zero (R27, R320). -/
def Staging.zero : Staging :=
  { total := 0#4, num := 0#4, idp := false, id := 0#8, pay := [], fill := 0#3 }

/-- The payload register at reset (R35, R320). -/
def Payload.none : Payload := { valid := false, fill := 0#3, buf := [] }

/-- A slot at reset and after eviction (R40, R245, R320). -/
def Slot.free {p : Params} : Slot p := { live := false, last := 0#p.tsW }

/-- The configuration at reset (R42, R320). -/
def Cfg.zero {p : Params} : Cfg p := { timeout := 0#p.toW, listmax := 0#8 }

/-- A block with the parameters `p` right after power-on (R320): framer idle, no partials, no payload, no live vessels, a
configuration that tracks nothing. No command has been issued and no result returned. -/
def State.powerOn (p : Params) : State p :=
  { sentence := { fr := Framer.cleared true, st := Staging.zero }
    fifo := []
    payload := Payload.none
    vessels := Vector.replicate p.vslots Slot.free
    cfg := Cfg.zero
    pending := []
    results := [] }

/-- This hardware right after power-on (R320). -/
def State.reset : State := State.powerOn hardware

/-! ## Stops

No condition of the block stops it: every error is a status in a result record (R290). -/

/-- Fault reasons: none. The spec gives the block no fault state (R290), so the type is empty and no step can fault.
Safe: it is what the spec says, not a convenience. -/
inductive Fault where
  deriving DecidableEq, Repr

/-- Refusal reasons. -/
inductive Refusal where
  /-- Raised by an arm of `exec` whose instruction has no meaning yet. No arm does now. Safe: a refused instruction proves
  nothing. -/
  | notModelled (mnemonic : String)
  deriving DecidableEq, Repr

end Sys2Proof.Machine
end

