-- ==== Sys2Proof/Machine/Flags.lean ====
section
/-! DEFINITION. The block's flags and codes. The block has no condition codes (spec/10_state.md R45): its flags are the
framer's completion, checksum-section and validity flags, and its codes are the status and outcome numbers of
spec/30_encoding.md R95 and R96. -/

namespace Sys2Proof.Machine

/-- `fail(code)` (R124): the first cause that invalidates the sentence is kept. -/
def Sentence.fail (why : Cause) (s : Sentence) : Sentence :=
  if s.fr.why = .ok then { s with fr := { s.fr with why := why } } else s

/-- The framer's phase (R44). -/
inductive Phase where
  | idle
  | body (term : BitVec 3)
  | checksum
  deriving DecidableEq, Repr

/-- The phase as a function of `(fr_done, fr_cks, fr_tidx)` (R44). -/
def Framer.phase (f : Framer) : Phase :=
  if f.done then .idle else if f.cks then .checksum else .body f.tidx

/-- The status a sentence with cause `why` closes with (R23, R130). A valid sentence closes FRAGMENT. -/
def Cause.closeStatus (why : Cause) : Status :=
  match why with
  | .ok => .fragment
  | .ignored => .ignored
  | .errTerm => .errTerm
  | .errFormat => .errFormat
  | .errHex => .errHex
  | .errChecksum => .errChecksum

/-- The 4-bit status code (R95). -/
def Status.code (st : Status) : BitVec 4 :=
  match st with
  | .ok => 0x0#4
  | .fragment => 0x1#4
  | .ignored => 0x2#4
  | .errTerm => 0x3#4
  | .errFormat => 0x4#4
  | .errHex => 0x5#4
  | .errChecksum => 0x6#4
  | .errNoPayload => 0x7#4
  | .errArmor => 0x8#4
  | .errRange => 0x9#4
  | .errLength => 0xA#4
  | .errSlot => 0xB#4
  | .errOpcode => 0xC#4

/-- The 3-bit reassembly outcome code (R96). -/
def Rstat.code (r : Rstat) : BitVec 3 :=
  match r with
  | .none => 0#3
  | .single => 1#3
  | .new => 2#3
  | .newEvict => 3#3
  | .append => 4#3
  | .complete => 5#3
  | .discard => 6#3

/-- The 4-bit code that `fr_why` holds (R23): the status code of the cause, with OK 0x0 for no failure. -/
def Cause.code (why : Cause) : BitVec 4 :=
  match why with
  | .ok => 0x0#4
  | .ignored => 0x2#4
  | .errTerm => 0x3#4
  | .errFormat => 0x4#4
  | .errHex => 0x5#4
  | .errChecksum => 0x6#4

/-- A payload completed exactly with these outcomes (R96). -/
def Rstat.completes (r : Rstat) : Bool :=
  match r with
  | .single => true
  | .complete => true
  | .none => false
  | .new => false
  | .newEvict => false
  | .append => false
  | .discard => false

/-- The status is an error (R95): every code but OK, FRAGMENT and IGNORED. -/
def Status.isError (st : Status) : Bool :=
  match st with
  | .ok => false
  | .fragment => false
  | .ignored => false
  | .errTerm => true
  | .errFormat => true
  | .errHex => true
  | .errChecksum => true
  | .errNoPayload => true
  | .errArmor => true
  | .errRange => true
  | .errLength => true
  | .errSlot => true
  | .errOpcode => true

/-! ## The source's contracts on the result record (R97, R291) -/

/-- The source's error classes (R291). `operand` is the block's own class of bad operands, `opcode` that of illegal
words. -/
inductive ErrorClass where
  | framing
  | reassembly
  | payloadDecode
  | capacity
  | operand
  | opcode
  deriving DecidableEq, Repr

/-- The class of a range or slot error by the command that met it (R291). Other commands meet neither (R292). -/
def operandErrorClass (i : Instr) : Option ErrorClass :=
  match i with
  | .getu _ _ => some .payloadDecode
  | .gets _ _ => some .payloadDecode
  | .getc _ _ => some .payloadDecode
  | .touch _ _ => some .capacity
  | .setcfg _ _ => some .operand
  | .age _ _ => some .operand
  | .rdslot _ => some .operand
  | .rdfifo _ => some .operand
  | .nop => none
  | .reset => none
  | .decode _ => none
  | .c6 _ => none
  | .tick _ => none
  | .rdpr => none
  | .reservedE _ => none
  | .reservedF _ => none

/-- The error class of the result of command `i` (R291), none where the source sees no error. A fragment that was discarded, or
whose allocation evicted a partial, is a ReassemblyError beside the status FRAGMENT (R296). -/
def Result.errorClass (i : Instr) (r : Result) : Option ErrorClass :=
  match r.status with
  | .ok => none
  | .ignored => none
  | .fragment =>
    match r.rstat with
    | .discard => some .reassembly
    | .newEvict => some .reassembly
    | .none => none
    | .single => none
    | .new => none
    | .append => none
    | .complete => none
  | .errTerm => some .framing
  | .errFormat => some .framing
  | .errHex => some .framing
  | .errChecksum => some .framing
  | .errNoPayload => some .payloadDecode
  | .errArmor => some .payloadDecode
  | .errLength => some .payloadDecode
  | .errRange => operandErrorClass i
  | .errSlot => operandErrorClass i
  | .errOpcode => some .opcode

/-- `decode(c) -> Result<bool, Error>` read from a DECODE result (R97): `Ok(true)` is FRAGMENT, `Ok(false)` is OK or IGNORED,
and a FramingError is one of the four framing codes. Other statuses are no DECODE outcome of a legal word. -/
def Result.decodeContract (r : Result) : Option (Except Status Bool) :=
  match r.status with
  | .fragment => some (.ok true)
  | .ok => some (.ok false)
  | .ignored => some (.ok false)
  | .errTerm => some (.error .errTerm)
  | .errFormat => some (.error .errFormat)
  | .errHex => some (.error .errHex)
  | .errChecksum => some (.error .errChecksum)
  | .errNoPayload => none
  | .errArmor => none
  | .errRange => none
  | .errLength => none
  | .errSlot => none
  | .errOpcode => none

end Sys2Proof.Machine
end

