-- ==== Sys2Proof/Machine/Operands.lean ====
section
/-! DEFINITION. How the block reads a byte and a term: the byte classes of the framer (spec/30_encoding.md R100), decimal
and hexadecimal syntax (spec/40_framer.md R132, R140), the armor and text alphabets and the payload bit stream
(spec/42_bitfield.md R201 to R206). -/

namespace Sys2Proof.Machine

/-! ## The byte classes (R100) -/

/-- The class of a byte. -/
inductive ByteClass where
  | start
  | comma
  | star
  | terminator
  | ordinary
  deriving DecidableEq, Repr

/-- The framer's decode table (R100): `$` 0x24 and `!` 0x21 start, `,` 0x2C, `*` 0x2A, CR 0x0D and LF 0x0A terminate. Every
other byte value is ordinary. -/
def classify (c : Byte) : ByteClass :=
  if c = 0x24#8 ∨ c = 0x21#8 then .start
  else if c = 0x2C#8 then .comma
  else if c = 0x2A#8 then .star
  else if c = 0x0D#8 ∨ c = 0x0A#8 then .terminator
  else .ordinary

/-! ## Decimal and hexadecimal syntax -/

/-- The value of a decimal digit byte `'0'` to `'9'` (R132). -/
def decDigit (c : Byte) : Option Nat :=
  if 0x30 ≤ c.toNat ∧ c.toNat ≤ 0x39 then some (c.toNat - 0x30) else none

/-- The number a run of bytes denotes after the digits `n`, none when a byte is no digit. -/
def decFrom (n : Nat) : List Byte → Option Nat
  | [] => some n
  | c :: t =>
    match decDigit c with
    | some d => decFrom (10 * n + d) t
    | none => none

/-- `dec(t)` (R132): defined for one or more digits, leading zeros allowed, of any size. -/
def dec (t : List Byte) : Option Nat :=
  match t with
  | [] => none
  | _ :: _ => decFrom 0 t

/-- The value of an uppercase hex digit byte (R140): `'0'` to `'9'` and `'A'` to `'F'`. -/
def hexDigit (c : Byte) : Option Nat :=
  if 0x30 ≤ c.toNat ∧ c.toNat ≤ 0x39 then some (c.toNat - 0x30)
  else if 0x41 ≤ c.toNat ∧ c.toNat ≤ 0x46 then some (c.toNat - 0x41 + 10)
  else none

/-- The five bytes `AIVDM` (R131). -/
def aivdm : List Byte := [0x41#8, 0x49#8, 0x56#8, 0x44#8, 0x4D#8]

/-! ## The alphabets -/

/-- The armor map `six(c)` (R201). -/
def six (c : Byte) : Option (BitVec 6) :=
  if 0x30 ≤ c.toNat ∧ c.toNat ≤ 0x57 then some (BitVec.ofNat 6 (c.toNat - 0x30))
  else if 0x60 ≤ c.toNat ∧ c.toNat ≤ 0x77 then some (BitVec.ofNat 6 (c.toNat - 0x38))
  else none

/-- The 6-bit text alphabet `ascii6(v)` (R202). -/
def ascii6 (v : BitVec 6) : Byte :=
  if v.toNat < 32 then BitVec.ofNat 8 (v.toNat + 0x40) else BitVec.ofNat 8 v.toNat

/-! ## The payload bit stream -/

/-- `armor_ok` (R36): every character of the payload is an armor character. -/
def armorOk (buf : List Byte) : Bool := buf.all fun c => (six c).isSome

/-- `bitlen = 6 × pr_len − pr_fill` (R36, R204). -/
def bitlen (p : Payload) : Nat := 6 * p.buf.length - p.fill.toNat

/-- `bit(i)` (R203): stream bit `6j` is the most-significant bit of character `j` (R62). The extractor reads it only for
`i < 6 × pr_len` of a payload that is `armorOk` (R205), so the 0 of the other cases is never read. -/
def payloadBit (buf : List Byte) (i : Nat) : Nat :=
  match buf[i / 6]? with
  | some c =>
    match six c with
    | some v => (v.toNat >>> (5 - i % 6)) % 2
    | none => 0
  | none => 0

/-- The field of `width` bits from offset `lo`, most-significant bit first (R206). Appending one more bit doubles what was
read before it. -/
def fieldBits (buf : List Byte) (lo : Nat) : Nat → Nat
  | 0 => 0
  | width + 1 => 2 * fieldBits buf lo width + payloadBit buf (lo + width)

/-- `field(lo, hi)` (R206). -/
def field (buf : List Byte) (lo hi : Nat) : Nat := fieldBits buf lo (hi - lo)

end Sys2Proof.Machine
end

