-- ==== Sys2Proof/Machine/Ops.lean ====
section
/-! DEFINITION. The named operations the meanings share: returning a result record (spec/30_encoding.md R94), the error
result that is all the block has for an exception (spec/60_exceptions.md R290, R293), the sentence reset
(spec/10_state.md R28), the payload load (spec/41_reassembly.md R179), the slot accesses and the age comparator
(spec/43_eviction.md R241), and one transaction on the command port (spec/30_encoding.md R80).
Each works at every value of the parameters of spec/00_scope.md R7: it reads them from the type of the state, or takes them
as a last argument where it has no state. -/

namespace Sys2Proof.Machine

/-! ## Results -/

/-- A `str` field of STR_MAX zero bytes (R94). -/
def blankStr (p : Params := hardware) : List Byte := List.replicate p.strMax 0x00#8

/-- `(status, value, rstat)` with `str` all zero: what every command but GETC returns (R94). -/
def Result.plain (status : Status) (value : Value) (rstat : Rstat) (p : Params := hardware) : Result :=
  { status := status, value := value, rstat := rstat, str := blankStr p }

/-- `(OK, value, R_NONE)`. -/
def Result.ok (value : Value) (p : Params := hardware) : Result := Result.plain .ok value .none p

/-- An error result records the status and nothing else (R293, R94). -/
def Result.error (status : Status) (p : Params := hardware) : Result := Result.plain status 0#32 .none p

/-- The command returns `r` on the port (R80, R94). -/
def State.respond {p : Params} (s : State p) (r : Result) : State p := { s with results := s.results ++ [r] }

/-- The command ends with the result `r` and the next command may be taken (R10 `return`, R298). -/
def finish {p : Params} (s : State p) (r : Result) : Host.Outcome (State p) Fault Refusal := .next (s.respond r)

/-- Every error but a failed sentence's: the status is reported and no state element is written (R290, R294). The block has
no trap entry and no return from one (R297, R298), so this is the whole of its exception mechanism. -/
def failWith {p : Params} (s : State p) (status : Status) : Host.Outcome (State p) Fault Refusal :=
  finish s (Result.error status p)

/-- ILLEGAL(word) (R272): the result of every illegal command word (R89). -/
def illegalWord {p : Params} (s : State p) : Host.Outcome (State p) Fault Refusal := failWith s .errOpcode

/-! ## The port -/

/-- The next command word, and the state once the block has taken it (R80). None when the host has issued no more. -/
def State.takeWord {p : Params} (s : State p) : Option (CmdWord × State p) :=
  match s.pending with
  | [] => none
  | w :: rest => some (w, { s with pending := rest })

/-- With no command word on the port the block waits, and no state element changes (R73, R320). -/
def idleWait {p : Params} (s : State p) : Host.Outcome (State p) Fault Refusal := .next s

/-- One transaction on the command port of a block whose commands do what `run` says (R3, R80, R333). An illegal word returns
ERR_OPCODE (R89, R272). -/
def transact {p : Params} (run : Instr → State p → Host.Outcome (State p) Fault Refusal) (s : State p) :
    Host.Outcome (State p) Fault Refusal :=
  match s.takeWord with
  | none => idleWait s
  | some (w, s') =>
    match decodeWord w with
    | .instr i => run i s'
    | .illegal _ => illegalWord s'

/-! ## The sentence -/

/-- The sentence reset with completion value `done` (R28). It writes every framer and staging register. -/
def sentenceReset (done : Bool) : Sentence := { fr := Framer.cleared done, st := Staging.zero }

/-- Append a byte to the term buffer, or mark the term oversized when the buffer is full (R126, R61).
DESIGN CHOICE for a TERM_CAP above 127 (notes/assumptions/5.md): R7 admits one, R25 and R27 give `fr_tlen` and `st_plen` 7 bits,
and the model's lengths grow to TERM_CAP with no wrap. -/
def Framer.pushByte (f : Framer) (c : Byte) (p : Params := hardware) : Framer :=
  if f.tbuf.length < p.termCap then { f with tbuf := f.tbuf ++ [c] } else { f with tovf := true }

/-- Start the next term with an empty term buffer (R127, R129). -/
def Framer.clearTerm (f : Framer) : Framer := { f with tbuf := [], tovf := false }

/-! ## The payload register -/

/-- `load_pr(buf, fill)` (R179). -/
def loadPr (buf : List Byte) (fill : BitVec 3) : Payload := { valid := true, fill := fill, buf := buf }

/-! ## The vessel-age table -/

/-- Slot `i` of the table. The commands read it for `i < VSLOTS` only (R243, R246). -/
def State.slot {p : Params} (s : State p) (i : Nat) : Slot p := (s.vessels[i]?).getD Slot.free

/-- Write slot `i`. The commands write it for `i < VSLOTS` only (R242). -/
def State.setSlot {p : Params} (s : State p) (i : Nat) (x : Slot p) : State p :=
  { s with vessels := s.vessels.setIfInBounds i x }

/-- The time operand T as a timestamp of TS_W bits (R87, R40). At TS_W = 32 it is T itself.
DESIGN CHOICE for other widths (notes/assumptions/5.md): a time is taken modulo 2^TS_W. -/
def stamp (t : BitVec 32) (p : Params := hardware) : Millis p := t.setWidth p.tsW

/-- The operand TIMEOUT as a timeout of TO_W bits (R88, R42). At TO_W = 16 it is TIMEOUT itself.
DESIGN CHOICE for other widths (notes/assumptions/5.md): a timeout is taken modulo 2^TO_W. -/
def seconds (timeout : BitVec 16) (p : Params := hardware) : Seconds p := timeout.setWidth p.toW

/-- A timestamp in the 32-bit `value` of a result (R246). At TS_W = 32 it is the timestamp itself.
DESIGN CHOICE for other widths (notes/assumptions/5.md): it is zero-extended, or loses its high bits. -/
def Slot.lastValue {p : Params} (x : Slot p) : Value := x.last.setWidth 32

/-- `cond(now, last)` (R241), at every TS_W and TO_W: the age modulo 2^TS_W is strictly greater than the timeout in
milliseconds. -/
def ageExceeds {tsW toW : Nat} (timeout : BitVec toW) (now last : BitVec tsW) : Bool :=
  decide ((now - last).toNat > timeout.toNat * 1000)

/-- TICK evicts this slot (R245). -/
def expired {p : Params} (timeout : Seconds p) (now : Millis p) (x : Slot p) : Bool :=
  x.live && ageExceeds timeout now x.last

/-- A slot after TICK (R245). -/
def sweepSlot {p : Params} (timeout : Seconds p) (now : Millis p) (x : Slot p) : Slot p :=
  if expired timeout now x then Slot.free else x

/-- The table of `n` slots with every slot replaced (R245). Written over lists, which Lean's kernel evaluates. -/
def mapSlots {p : Params} {n : Nat} (f : Slot p → Slot p) (v : Vector (Slot p) n) : Vector (Slot p) n :=
  ⟨(v.toList.map f).toArray, by simp⟩

/-- The number whose bit `s` is the `s`-th entry, slot 0 at the least-significant end (R8, R245). -/
def maskNat : List Bool → Nat
  | [] => 0
  | b :: rest => b.toNat + 2 * maskNat rest

end Sys2Proof.Machine
end

