-- ==== Sys2Proof/Machine/Bitfield.lean ====
section
/-! DEFINITION. C6, GETU, GETS, GETC and RDPR, the 6-bit payload bit-field extractor (spec/42_bitfield.md). -/

namespace Sys2Proof.Machine

/-- The three kinds of extraction (R205). -/
inductive Kind where
  | unsigned
  | signed
  | text
  deriving DecidableEq, Repr

/-- The width limit of a kind (R205): W_MAX bits for a number, whole 6-bit groups and STR_MAX of them for text. -/
def Kind.widthOk (k : Kind) (width : Nat) (p : Params := hardware) : Bool :=
  match k with
  | .unsigned => decide (width ≤ p.wMax)
  | .signed => decide (width ≤ p.wMax)
  | .text => decide (width % 6 = 0 ∧ width / 6 ≤ p.strMax)

/-- `xcheck(lo, hi, kind)` (R205): the operand checks in their order, OK when all pass. -/
def xcheck (k : Kind) (lo hi : Nat) (pr : Payload) (p : Params := hardware) : Status :=
  if pr.valid = false then .errNoPayload
  else if armorOk pr.buf = false then .errArmor
  else if lo > hi then .errRange
  else if k.widthOk (hi - lo) p = false then .errRange
  else if hi > bitlen pr then .errLength
  else .ok

/-- An extraction (R211 to R213): the first failed check is the status, otherwise the result is `r`. -/
def extract {p : Params} (k : Kind) (lo hi : BitVec 12) (r : Result) (s : State p) :
    Host.Outcome (State p) Fault Refusal :=
  match xcheck k lo.toNat hi.toNat s.payload p with
  | .ok => finish s r
  | bad => failWith s bad

/-- C6 (R210). -/
def execC6 {p : Params} (c : Byte) (s : State p) : Host.Outcome (State p) Fault Refusal :=
  match six c with
  | some v => finish s (Result.ok (v.setWidth 32) p)
  | none => failWith s .errArmor

/-- GETU (R211): the field, zero-extended. -/
def execGetu {p : Params} (lo hi : BitVec 12) (s : State p) : Host.Outcome (State p) Fault Refusal :=
  extract .unsigned lo hi (Result.ok (BitVec.ofNat 32 (field s.payload.buf lo.toNat hi.toNat)) p) s

/-- The signed value of a `w`-bit field `u` (R212). -/
def signedValue (w u : Nat) : Int := if w > 0 ∧ u ≥ 2 ^ (w - 1) then (u : Int) - 2 ^ w else u

/-- GETS (R212): the signed field modulo 2^32. -/
def execGets {p : Params} (lo hi : BitVec 12) (s : State p) : Host.Outcome (State p) Fault Refusal :=
  extract .signed lo hi
    (Result.ok (BitVec.ofInt 32 (signedValue (hi.toNat - lo.toNat) (field s.payload.buf lo.toNat hi.toNat))) p) s

/-- The `n` characters of a text field from bit `lo` (R213). -/
def textChars (buf : List Byte) (lo n : Nat) : List Byte :=
  (List.range n).map fun k => ascii6 (BitVec.ofNat 6 (field buf (lo + 6 * k) (lo + 6 * k + 6)))

/-- Trailing fill: `'@'` 0x40 and space 0x20 (R213). -/
def isFill (c : Byte) : Bool := c == 0x40#8 || c == 0x20#8

/-- Drop the trailing fill, and only that (R213). -/
def trimFill (t : List Byte) : List Byte := (t.reverse.dropWhile isFill).reverse

/-- The result of a text extraction (R213): the length in `value`, the characters padded with NUL to STR_MAX in `str`. -/
def textResult (t : List Byte) (p : Params := hardware) : Result :=
  { status := .ok
    value := BitVec.ofNat 32 t.length
    rstat := .none
    str := t ++ List.replicate (p.strMax - t.length) 0x00#8 }

/-- GETC (R213). -/
def execGetc {p : Params} (lo hi : BitVec 12) (s : State p) : Host.Outcome (State p) Fault Refusal :=
  extract .text lo hi (textResult (trimFill (textChars s.payload.buf lo.toNat ((hi.toNat - lo.toNat) / 6))) p) s

/-- The descriptor `{pr_valid, 12'b0, pr_fill[2:0], 6'b0, pr_len[9:0]}` (R214). -/
def Payload.descriptor (p : Payload) : Value :=
  BitVec.ofBool p.valid ++ (0#12 ++ (p.fill ++ (0#6 ++ BitVec.ofNat 10 p.buf.length)))

/-- RDPR (R214). -/
def execRdpr {p : Params} (s : State p) : Host.Outcome (State p) Fault Refusal :=
  finish s (Result.ok s.payload.descriptor p)

end Sys2Proof.Machine
end

