-- ==== Sys2Proof/Machine/Control.lean ====
section
/-! DEFINITION. NOP, RESET, RDFIFO and the reserved opcodes (spec/44_control.md). -/

namespace Sys2Proof.Machine

/-- NOP (R270). -/
def execNop {p : Params} (s : State p) : Host.Outcome (State p) Fault Refusal :=
  finish s (Result.ok 0#32 p)

/-- Every state element of the block at its reset value (R271, R320). The port's queues are no state of the block, so they
stay. -/
def State.blockReset {p : Params} (s : State p) : State p :=
  { State.powerOn p with pending := s.pending, results := s.results }

/-- RESET (R271). -/
def execReset {p : Params} (s : State p) : Host.Outcome (State p) Fault Refusal :=
  finish s.blockReset (Result.ok 0#32 p)

/-- The descriptor `{1'b1, 1'b0, blen[9:0], cnt, next, total, id}` of a FIFO entry (R273). -/
def Partial.descriptor (e : Partial) : Value :=
  1#1 ++ (0#1 ++ (BitVec.ofNat 10 e.buf.length ++ (e.cnt ++ (e.next ++ (e.total ++ e.id)))))

/-- RDFIFO (R273): a position past the last entry reads 0. -/
def execRdfifo {p : Params} (pos : BitVec 8) (s : State p) : Host.Outcome (State p) Fault Refusal :=
  if pos.toNat ≥ p.fifoN then failWith s .errSlot
  else
    match s.fifo[pos.toNat]? with
    | none => finish s (Result.ok 0#32 p)
    | some e => finish s (Result.ok e.descriptor p)

/-- Opcode 0xE (R272): ERR_OPCODE and no state change, whatever the other bits are. -/
def execReservedE {p : Params} (_rest : BitVec 60) (s : State p) : Host.Outcome (State p) Fault Refusal :=
  illegalWord s

/-- Opcode 0xF (R272): ERR_OPCODE and no state change, whatever the other bits are. -/
def execReservedF {p : Params} (_rest : BitVec 60) (s : State p) : Host.Outcome (State p) Fault Refusal :=
  illegalWord s

end Sys2Proof.Machine
end

