-- ==== Sys2Proof/Machine/Eviction.lean ====
section
/-! DEFINITION. SETCFG, TOUCH, AGE, TICK and RDSLOT, the age-based vessel eviction comparator (spec/43_eviction.md). -/

namespace Sys2Proof.Machine

/-- SETCFG (R240): both registers, or neither when LISTMAX exceeds VSLOTS. -/
def execSetcfg {p : Params} (timeout : BitVec 16) (listmax : BitVec 8) (s : State p) :
    Host.Outcome (State p) Fault Refusal :=
  if listmax.toNat > p.vslots then failWith s .errRange
  else finish { s with cfg := { timeout := seconds timeout p, listmax := listmax } } (Result.ok 0#32 p)

/-- TOUCH (R242): mark the slot live and stamp it, below both VSLOTS and `cfg_listmax`. -/
def execTouch {p : Params} (slot : BitVec 8) (t : BitVec 32) (s : State p) : Host.Outcome (State p) Fault Refusal :=
  if slot.toNat ≥ p.vslots ∨ slot.toNat ≥ s.cfg.listmax.toNat then failWith s .errSlot
  else finish (s.setSlot slot.toNat { live := true, last := stamp t p }) (Result.ok 0#32 p)

/-- AGE (R243): `{30'b0, vt_live, cond}`, whether or not the slot is live. -/
def execAge {p : Params} (slot : BitVec 8) (now : BitVec 32) (s : State p) : Host.Outcome (State p) Fault Refusal :=
  if slot.toNat ≥ p.vslots then failWith s .errSlot
  else
    let x := s.slot slot.toNat
    finish s
      (Result.ok (0#30 ++ (BitVec.ofBool x.live ++ BitVec.ofBool (ageExceeds s.cfg.timeout (stamp now p) x.last))) p)

/-- The mask TICK returns (R245): bit `s` is 1 exactly when slot `s` is evicted. -/
def evictMask {p : Params} {n : Nat} (timeout : Seconds p) (now : Millis p) (v : Vector (Slot p) n) : Value :=
  BitVec.ofNat 32 (maskNat (v.toList.map (expired timeout now)))

/-- TICK (R245): every slot is judged against the same time and the same timeout. -/
def execTick {p : Params} (now : BitVec 32) (s : State p) : Host.Outcome (State p) Fault Refusal :=
  finish { s with vessels := mapSlots (sweepSlot s.cfg.timeout (stamp now p)) s.vessels }
    (Result.ok (evictMask s.cfg.timeout (stamp now p) s.vessels) p)

/-- RDSLOT (R246). -/
def execRdslot {p : Params} (slot : BitVec 8) (s : State p) : Host.Outcome (State p) Fault Refusal :=
  if slot.toNat ≥ p.vslots then failWith s .errSlot else finish s (Result.ok (s.slot slot.toNat).lastValue p)

end Sys2Proof.Machine
end

