-- ==== Sys2Proof/Machine/Reassembly.lean ====
section
/-! DEFINITION. ACCEPT, the multi-fragment reassembly FIFO (spec/41_reassembly.md R170 to R179). It has no opcode: it runs
inside the DECODE whose terminator closes a valid sentence. -/

namespace Sys2Proof.Machine

/-- The transient fragment record (R31). It is no state. -/
structure Fragment where
  total : BitVec 4
  num : BitVec 4
  idp : Bool
  id : Byte
  pay : List Byte
  fill : BitVec 3
  deriving DecidableEq, Repr

/-- What ACCEPT leaves (R170): the FIFO, the payload register and the outcome. -/
structure Accepted where
  fifo : List Partial
  payload : Payload
  rstat : Rstat
  deriving DecidableEq, Repr

/-- The position of the entry whose id is `id` (R173). Ids are distinct (R34 (a)), so at most one entry matches. -/
def findPartial (id : Byte) (fifo : List Partial) : Option Nat := fifo.findIdx? fun e => e.id == id

/-- The entry after one more fragment (R174). DESIGN CHOICE for a MAX_TOTAL above 14 (notes/assumptions/5.md): the counters keep
the 4 bits of R33 and wrap. -/
def Partial.appendFragment (e : Partial) (f : Fragment) : Partial :=
  { e with buf := e.buf ++ f.pay, cnt := e.cnt + 1#4, next := e.next + 1#4 }

/-- The entry a first-seen fragment allocates, whatever its number (R177). DESIGN CHOICE for a MAX_TOTAL above 14
(notes/assumptions/5.md): `next` keeps the 4 bits of R33 and wraps. -/
def Fragment.allocate (f : Fragment) : Partial :=
  { id := f.id, total := f.total, next := f.num + 1#4, cnt := 1#4, buf := f.pay }

/-- A fragment whose id is that of entry `e` at position `i` (R174 to R176). -/
def acceptMatch (f : Fragment) (i : Nat) (e : Partial) (fifo : List Partial) (pr : Payload) : Accepted :=
  if f.num = e.next ∧ f.total = e.total then
    let e' := e.appendFragment f
    if e'.cnt = e'.total then { fifo := fifo.eraseIdx i, payload := loadPr e'.buf f.fill, rstat := .complete }
    else { fifo := fifo.set i e', payload := pr, rstat := .append }
  else { fifo := fifo.eraseIdx i, payload := pr, rstat := .discard }

/-- A fragment of an id the FIFO does not hold (R177, R178): a full FIFO loses its head first. DESIGN CHOICE for a FIFO_N of 0
(notes/assumptions/5.md): an empty FIFO is then full, has no head to lose and takes the entry. -/
def acceptNew (f : Fragment) (fifo : List Partial) (pr : Payload) (p : Params := hardware) : Accepted :=
  if fifo.length = p.fifoN then { fifo := fifo.eraseIdx 0 ++ [f.allocate], payload := pr, rstat := .newEvict }
  else { fifo := fifo ++ [f.allocate], payload := pr, rstat := .new }

/-- ACCEPT (R171). A single-fragment message bypasses the FIFO (R172). -/
def accept (f : Fragment) (fifo : List Partial) (pr : Payload) (p : Params := hardware) : Accepted :=
  if f.total = 1#4 then { fifo := fifo, payload := loadPr f.pay f.fill, rstat := .single }
  else
    match findPartial f.id fifo with
    | some i =>
      match fifo[i]? with
      | some e => acceptMatch f i e fifo pr
      | none => acceptNew f fifo pr p
    | none => acceptNew f fifo pr p

end Sys2Proof.Machine
end

