-- ==== Sys2Proof/Machine/Framer.lean ====
section
/-! DEFINITION. DECODE, the sentence framer and checksum validator (spec/40_framer.md). -/

namespace Sys2Proof.Machine

/-! ## The term parse steps (R131 to R138), each on the term `fr_tbuf[0 .. fr_tlen)` -/

/-- Term 0, the identifier (R131): anything but the five bytes `AIVDM` is IGNORED. An oversized term 0 is judged here. -/
def term0 (s : Sentence) : Sentence :=
  if s.fr.tovf = false ∧ s.fr.tbuf = aivdm then s else s.fail .ignored

/-- Term 1, `total` (R133), in the 4 bits of R27.
DESIGN CHOICE for a MAX_TOTAL above 15 (notes/assumptions/5.md): a larger total is taken modulo 16. -/
def term1 (s : Sentence) (p : Params := hardware) : Sentence :=
  match dec s.fr.tbuf with
  | some n =>
    if 1 ≤ n ∧ n ≤ p.maxTotal then { s with st := { s.st with total := BitVec.ofNat 4 n } } else s.fail .errTerm
  | none => s.fail .errTerm

/-- Term 2, `num` (R134). -/
def term2 (s : Sentence) : Sentence :=
  match dec s.fr.tbuf with
  | some n =>
    if 1 ≤ n ∧ n ≤ s.st.total.toNat then { s with st := { s.st with num := BitVec.ofNat 4 n } } else s.fail .errTerm
  | none => s.fail .errTerm

/-- Term 3, `id` (R135): empty only in a single-fragment sentence. The id has the 8 bits of R27, which hold every ID_MAX that R7
allows. -/
def term3 (s : Sentence) (p : Params := hardware) : Sentence :=
  if s.fr.tbuf = [] then
    let cleared : Sentence := { s with st := { s.st with idp := false, id := 0#8 } }
    if s.st.total.toNat > 1 then cleared.fail .errTerm else cleared
  else
    match dec s.fr.tbuf with
    | some n =>
      if n ≤ p.idMax then { s with st := { s.st with idp := true, id := BitVec.ofNat 8 n } } else s.fail .errTerm
    | none => s.fail .errTerm

/-- Term 4, the channel (R136): nothing is checked and nothing retained. -/
def term4 (s : Sentence) : Sentence := s

/-- Term 5, the armored payload (R137), copied verbatim. -/
def term5 (s : Sentence) : Sentence :=
  if s.fr.tbuf = [] then s.fail .errTerm else { s with st := { s.st with pay := s.fr.tbuf } }

/-- Term 6, the fill-bit count (R138): one digit `'0'` to `'5'`. -/
def term6 (s : Sentence) : Sentence :=
  match s.fr.tbuf with
  | [c] =>
    match decDigit c with
    | some n =>
      if n ≤ Config.fillMax then { s with st := { s.st with fill := BitVec.ofNat 3 n } } else s.fail .errTerm
    | none => s.fail .errTerm
  | [] => s.fail .errTerm
  | _ :: _ :: _ => s.fail .errTerm

/-- The parse step of terms 1 to 6. -/
def termStep (k : BitVec 3) (s : Sentence) (p : Params := hardware) : Sentence :=
  match k.toNat with
  | 1 => term1 s p
  | 2 => term2 s
  | 3 => term3 s p
  | 4 => term4 s
  | 5 => term5 s
  | _ => term6 s

/-- `complete_term(k)` (R128, R139). -/
def completeTerm (k : BitVec 3) (s : Sentence) (p : Params := hardware) : Sentence :=
  if s.fr.why ≠ .ok then s
  else if k = 0#3 then term0 s
  else if k = 7#3 then s.fail .errFormat
  else if s.fr.tovf then s.fail .errTerm
  else termStep k s p

/-! ## The bytes of a sentence -/

/-- An ordinary byte (R126): XORed in the body, and appended to the term in either section. -/
def ordinary (c : Byte) (s : Sentence) (p : Params := hardware) : Sentence :=
  let f : Framer := if s.fr.cks then s.fr else { s.fr with acc := s.fr.acc ^^^ c }
  { s with fr := f.pushByte c p }

/-- The term index after a comma: `min(fr_tidx + 1, 7)` (R127, R24). -/
def nextTerm (k : BitVec 3) : BitVec 3 := if k = 7#3 then 7#3 else k + 1#3

/-- `,` (R127): in the body it is XORed and completes the term, in the checksum section it is a format error. -/
def comma (s : Sentence) (p : Params := hardware) : Sentence :=
  if s.fr.cks then s.fail .errFormat
  else
    let x : Sentence := { s with fr := { s.fr with acc := s.fr.acc ^^^ 0x2C#8 } }
    let y := completeTerm s.fr.tidx x p
    { y with fr := { y.fr.clearTerm with tidx := nextTerm y.fr.tidx } }

/-- `*` (R129): the first one completes the term and opens the checksum section, a second one is a format error. -/
def star (s : Sentence) (p : Params := hardware) : Sentence :=
  if s.fr.cks then s.fail .errFormat
  else
    let x := completeTerm s.fr.tidx s p
    let y := if x.fr.tidx ≠ 6#3 then x.fail .errFormat else x
    { y with fr := { y.fr.clearTerm with cks := true } }

/-! ## The close -/

/-- `check_checksum()` (R140, R141): two uppercase hex digits, high digit first, equal to the accumulator. -/
def checkChecksum (s : Sentence) : Sentence :=
  if s.fr.tovf then s.fail .errHex
  else
    match s.fr.tbuf with
    | [a, b] =>
      match hexDigit a, hexDigit b with
      | some x, some y => if 16 * x + y ≠ s.fr.acc.toNat then s.fail .errChecksum else s
      | some _, none => s.fail .errHex
      | none, some _ => s.fail .errHex
      | none, none => s.fail .errHex
    | [] => s.fail .errHex
    | [_] => s.fail .errHex
    | _ :: _ :: _ :: _ => s.fail .errHex

/-- The checks of a close, before the fragment is formed (R130). -/
def closeCheck (s : Sentence) (p : Params := hardware) : Sentence :=
  if s.fr.cks then
    if s.fr.why = .ok then checkChecksum s else s
  else
    (if s.fr.tidx = 0#3 then completeTerm 0#3 s p else s).fail .errFormat

/-- The fragment record formed from the staging registers (R31). -/
def Staging.fragment (st : Staging) : Fragment :=
  { total := st.total, num := st.num, idp := st.idp, id := st.id, pay := st.pay, fill := st.fill }

/-- `close()` (R130): a valid sentence hands its fragment to ACCEPT, any other changes neither the FIFO nor the payload
register. Both end in a sentence reset. -/
def closeSentence {p : Params} (s : State p) : Host.Outcome (State p) Fault Refusal :=
  let x := closeCheck s.sentence p
  if x.fr.why = .ok then
    let a := accept x.st.fragment s.fifo s.payload p
    finish { s with sentence := sentenceReset true, fifo := a.fifo, payload := a.payload }
      (Result.plain .fragment 0#32 a.rstat p)
  else
    finish { s with sentence := sentenceReset true } (Result.plain x.fr.why.closeStatus 0#32 .none p)

/-! ## The command -/

/-- A byte that closes nothing: the sentence becomes `x` and the result is `(OK, 0, R_NONE)` (R120, R125). -/
def framerStep {p : Params} (s : State p) (x : Sentence) : Host.Outcome (State p) Fault Refusal :=
  finish { s with sentence := x } (Result.ok 0#32 p)

/-- DECODE (R120). A start marker restarts in any phase (R121), and every other byte is ignored in idle (R122). -/
def execDecode {p : Params} (c : Byte) (s : State p) : Host.Outcome (State p) Fault Refusal :=
  match classify c with
  | .start => framerStep s (sentenceReset false)
  | .ordinary => if s.sentence.fr.done then framerStep s s.sentence else framerStep s (ordinary c s.sentence p)
  | .comma => if s.sentence.fr.done then framerStep s s.sentence else framerStep s (comma s.sentence p)
  | .star => if s.sentence.fr.done then framerStep s s.sentence else framerStep s (star s.sentence p)
  | .terminator => if s.sentence.fr.done then framerStep s s.sentence else closeSentence s

end Sys2Proof.Machine
end

