-- ==== Sys2Proof/Machine/Dispatch.lean ====
section
/-! DEFINITION. The meaning of each command, one arm per constructor of Instr. -/

namespace Sys2Proof.Machine

-- A command, once the block has taken its word from the port.
def exec (i : Instr) (s : State) : Host.Outcome State Fault Refusal :=
  match i with
  | .nop => Sys2Proof.Machine.execNop s
  | .reset => Sys2Proof.Machine.execReset s
  | .decode c => Sys2Proof.Machine.execDecode c s
  | .c6 c => Sys2Proof.Machine.execC6 c s
  | .getu lo hi => Sys2Proof.Machine.execGetu lo hi s
  | .gets lo hi => Sys2Proof.Machine.execGets lo hi s
  | .getc lo hi => Sys2Proof.Machine.execGetc lo hi s
  | .setcfg timeout listmax => Sys2Proof.Machine.execSetcfg timeout listmax s
  | .touch slot t => Sys2Proof.Machine.execTouch slot t s
  | .age slot now => Sys2Proof.Machine.execAge slot now s
  | .tick now => Sys2Proof.Machine.execTick now s
  | .rdslot slot => Sys2Proof.Machine.execRdslot slot s
  | .rdfifo pos => Sys2Proof.Machine.execRdfifo pos s
  | .rdpr => Sys2Proof.Machine.execRdpr s
  | .reservedE rest => Sys2Proof.Machine.execReservedE rest s
  | .reservedF rest => Sys2Proof.Machine.execReservedF rest s

end Sys2Proof.Machine
end

