-- ==== Sys2Proof/Machine/Step.lean ====
section
/-! DEFINITION. One step: the block takes one command word from the port, performs the whole command and returns one result
record (spec/00_scope.md R3, spec/70_reset_and_hazards.md R333). With no word on the port it waits. -/

namespace Sys2Proof.Machine

/-- One transaction on the command port (R80), the command's meaning from `exec`. -/
def step (s : State) : Host.Outcome State Fault Refusal := transact exec s

/-- `s` with the word `w` of `nbits` bits issued on the command port ahead of any other, so that the next step takes it. -/
def State.withFetchWord (s : State) (nbits w : Nat) : State := { s with pending := tableWord nbits w :: s.pending }

end Sys2Proof.Machine
end

