-- ==== Sys2Proof/Machine/AnyParams.lean ====
section
/-! DEFINITION. The block with the parameters as an argument (spec/00_scope.md R7): its commands, its step and the machine they
make, for any value of all ten.
`exec`, `step` and `core` are the block at `hardware`, whose form the host fixes. Laws/AnyParams.lean proves that they are these
at `hardware`. -/

namespace Sys2Proof.Machine

/-- What a command does in a block with the parameters `p` (R7). -/
def execFor {p : Params} (i : Instr) (s : State p) : Host.Outcome (State p) Fault Refusal :=
  match i with
  | .nop => execNop s
  | .reset => execReset s
  | .decode c => execDecode c s
  | .c6 c => execC6 c s
  | .getu lo hi => execGetu lo hi s
  | .gets lo hi => execGets lo hi s
  | .getc lo hi => execGetc lo hi s
  | .setcfg timeout listmax => execSetcfg timeout listmax s
  | .touch slot t => execTouch slot t s
  | .age slot now => execAge slot now s
  | .tick now => execTick now s
  | .rdslot slot => execRdslot slot s
  | .rdfifo pos => execRdfifo pos s
  | .rdpr => execRdpr s
  | .reservedE rest => execReservedE rest s
  | .reservedF rest => execReservedF rest s

/-- One transaction on the command port of a block with the parameters `p` (R7, R80). -/
def stepFor {p : Params} (s : State p) : Host.Outcome (State p) Fault Refusal := transact execFor s

/-- The machine with the parameters `p` (R7). -/
def coreFor (p : Params) : Host.Core :=
  { State := State p, Fault := Fault, Refusal := Refusal, step := stepFor, reset := State.powerOn p }

end Sys2Proof.Machine
end

