-- ==== Sys2Proof/Machine/Assembler.lean ====
section
/-! DEFINITION. The assembler of spec/30_encoding.md R105 and the pseudo-instructions of R106: a line of assembly, the check
that its operands fit, the command words it stands for, and the reading of a line's text.
No part of the block: the host uses it to write command words (D50). -/

namespace Sys2Proof.Machine

/-! ## Lines (R105, R106) -/

/-- One line of assembly, its operands as the numbers written. -/
inductive AsmLine where
  | nop
  | reset
  | rdpr
  | decode (c : Nat)
  | c6 (c : Nat)
  | getu (lo hi : Nat)
  | gets (lo hi : Nat)
  | getc (lo hi : Nat)
  | setcfg (timeout listmax : Nat)
  | touch (slot t : Nat)
  | age (slot now : Nat)
  | tick (now : Nat)
  | rdslot (slot : Nat)
  | rdfifo (pos : Nat)
  /-- `FEED "s"` (R106). -/
  | feed (bytes : List Byte)
  /-- `SENT m, "body"` (R106). -/
  | sent (m : Byte) (body : List Byte)
  /-- `EXPECT status` (R106): an annotation, no command. -/
  | expect (status : Status)
  deriving DecidableEq, Repr

/-- Every operand fits its field, and a SENT marker is a start marker (R105, R106). -/
def AsmLine.fits (l : AsmLine) : Bool :=
  match l with
  | .nop => true
  | .reset => true
  | .rdpr => true
  | .decode c => decide (c < 256)
  | .c6 c => decide (c < 256)
  | .getu lo hi => decide (lo < 4096 ∧ hi < 4096)
  | .gets lo hi => decide (lo < 4096 ∧ hi < 4096)
  | .getc lo hi => decide (lo < 4096 ∧ hi < 4096)
  | .setcfg timeout listmax => decide (timeout < 65536 ∧ listmax < 256)
  | .touch slot t => decide (slot < 256 ∧ t < 4294967296)
  | .age slot now => decide (slot < 256 ∧ now < 4294967296)
  | .tick now => decide (now < 4294967296)
  | .rdslot slot => decide (slot < 256)
  | .rdfifo pos => decide (pos < 256)
  | .feed _ => true
  | .sent m _ => decide (m = 0x21#8 ∨ m = 0x24#8)
  | .expect _ => true

/-! ## Pseudo-instructions (R106) -/

/-- `FEED`: one DECODE per byte, in order. -/
def feedInstrs (bytes : List Byte) : List Instr := bytes.map Instr.decode

/-- The XOR of every byte (R106, R143). -/
def xorBytes (bytes : List Byte) : Byte := bytes.foldl (fun acc c => acc ^^^ c) 0x00#8

/-- The uppercase hex digit of a number below 16. -/
def hexChar (n : Nat) : Byte := if n < 10 then BitVec.ofNat 8 (0x30 + n) else BitVec.ofNat 8 (0x41 + (n - 10))

/-- Two uppercase hex digits, high digit first. -/
def hexPair (b : Byte) : List Byte := [hexChar (b.toNat / 16), hexChar (b.toNat % 16)]

/-- The bytes of `SENT m, "body"`: `m ++ body ++ "*" ++ H ++ "\r\n"`. -/
def sentBytes (m : Byte) (body : List Byte) : List Byte :=
  m :: (body ++ [0x2A#8] ++ hexPair (xorBytes body) ++ [0x0D#8, 0x0A#8])

/-- The commands a line stands for, its operands placed in their fields. Meant for a line that `fits`. -/
def AsmLine.expand (l : AsmLine) : List Instr :=
  match l with
  | .nop => [.nop]
  | .reset => [.reset]
  | .rdpr => [.rdpr]
  | .decode c => [.decode (BitVec.ofNat 8 c)]
  | .c6 c => [.c6 (BitVec.ofNat 8 c)]
  | .getu lo hi => [.getu (BitVec.ofNat 12 lo) (BitVec.ofNat 12 hi)]
  | .gets lo hi => [.gets (BitVec.ofNat 12 lo) (BitVec.ofNat 12 hi)]
  | .getc lo hi => [.getc (BitVec.ofNat 12 lo) (BitVec.ofNat 12 hi)]
  | .setcfg timeout listmax => [.setcfg (BitVec.ofNat 16 timeout) (BitVec.ofNat 8 listmax)]
  | .touch slot t => [.touch (BitVec.ofNat 8 slot) (BitVec.ofNat 32 t)]
  | .age slot now => [.age (BitVec.ofNat 8 slot) (BitVec.ofNat 32 now)]
  | .tick now => [.tick (BitVec.ofNat 32 now)]
  | .rdslot slot => [.rdslot (BitVec.ofNat 8 slot)]
  | .rdfifo pos => [.rdfifo (BitVec.ofNat 8 pos)]
  | .feed bytes => feedInstrs bytes
  | .sent m body => feedInstrs (sentBytes m body)
  | .expect _ => []

/-- The command words of a line. An operand that does not fit is an assembly error, not a truncation (R105). -/
def AsmLine.assemble (l : AsmLine) : Option (List CmdWord) := if l.fits then some (l.expand.map encode) else none

/-! ## The text of a line (R105). Text is a list of characters, and blanks around an operand do not count. -/

/-- Drop the blanks at both ends. -/
def trimBlanks (t : List Char) : List Char :=
  ((t.dropWhile (· == ' ')).reverse.dropWhile (· == ' ')).reverse

/-- Split at every comma. -/
def splitCommas : List Char → List (List Char)
  | [] => [[]]
  | c :: t =>
    match splitCommas t with
    | [] => [[c]]
    | p :: ps => if c = ',' then [] :: p :: ps else (c :: p) :: ps

/-- The value of a digit character in the given base. -/
def charDigit (base : Nat) (c : Char) : Option Nat :=
  let n := c.toNat
  let d : Option Nat :=
    if 0x30 ≤ n ∧ n ≤ 0x39 then some (n - 0x30)
    else if 0x41 ≤ n ∧ n ≤ 0x46 then some (n - 0x41 + 10)
    else if 0x61 ≤ n ∧ n ≤ 0x66 then some (n - 0x61 + 10)
    else none
  match d with
  | some k => if k < base then some k else none
  | none => none

/-- The number a run of digits denotes after `n`. -/
def digitsFrom (base n : Nat) : List Char → Option Nat
  | [] => some n
  | c :: t =>
    match charDigit base c with
    | some d => digitsFrom base (base * n + d) t
    | none => none

/-- A number, decimal or `0x` hexadecimal (R105). DESIGN CHOICE (notes/assumptions/9.md): leading zeros are allowed, the `x` is
small and the hexadecimal digits may be of either case. -/
def readNumber (t : List Char) : Option Nat :=
  match t with
  | '0' :: 'x' :: c :: ds => digitsFrom 16 0 (c :: ds)
  | c :: ds => digitsFrom 10 0 (c :: ds)
  | [] => none

/-- A byte operand: a quoted character or a number (R105). DESIGN CHOICE (notes/assumptions/9.md): one character stands between
the quotes and no escape. R9 writes `'c'` for the ASCII character only, and a quoted character past ASCII is read as its code, so
one above 0xFF does not fit. -/
def readByte (t : List Char) : Option Nat :=
  match t with
  | ['\'', c, '\''] => some c.toNat
  | _ => readNumber t

/-- The bytes of a quoted string after its opening quote, with the escapes `\r`, `\n` and `\xNN` (R106). DESIGN CHOICE
(notes/assumptions/9.md): the string ends at the first quote, which must end the text, no other backslash is allowed, and a
character past ASCII is the byte of its code, one above 0xFF an error. -/
def readString : List Char → Option (List Byte)
  | ['"'] => some []
  | '\\' :: 'r' :: t => (readString t).map (0x0D#8 :: ·)
  | '\\' :: 'n' :: t => (readString t).map (0x0A#8 :: ·)
  | '\\' :: 'x' :: a :: b :: t =>
    match charDigit 16 a, charDigit 16 b with
    | some x, some y => (readString t).map (BitVec.ofNat 8 (16 * x + y) :: ·)
    | _, _ => none
  | c :: t => if c = '"' ∨ c = '\\' ∨ 256 ≤ c.toNat then none else (readString t).map (BitVec.ofNat 8 c.toNat :: ·)
  | [] => none

/-- The names of the statuses (R95), for EXPECT. -/
def statusNames : List (List Char × Status) :=
  [(['O', 'K'], .ok),
   (['F', 'R', 'A', 'G', 'M', 'E', 'N', 'T'], .fragment),
   (['I', 'G', 'N', 'O', 'R', 'E', 'D'], .ignored),
   (['E', 'R', 'R', '_', 'T', 'E', 'R', 'M'], .errTerm),
   (['E', 'R', 'R', '_', 'F', 'O', 'R', 'M', 'A', 'T'], .errFormat),
   (['E', 'R', 'R', '_', 'H', 'E', 'X'], .errHex),
   (['E', 'R', 'R', '_', 'C', 'H', 'E', 'C', 'K', 'S', 'U', 'M'], .errChecksum),
   (['E', 'R', 'R', '_', 'N', 'O', 'P', 'A', 'Y', 'L', 'O', 'A', 'D'], .errNoPayload),
   (['E', 'R', 'R', '_', 'A', 'R', 'M', 'O', 'R'], .errArmor),
   (['E', 'R', 'R', '_', 'R', 'A', 'N', 'G', 'E'], .errRange),
   (['E', 'R', 'R', '_', 'L', 'E', 'N', 'G', 'T', 'H'], .errLength),
   (['E', 'R', 'R', '_', 'S', 'L', 'O', 'T'], .errSlot),
   (['E', 'R', 'R', '_', 'O', 'P', 'C', 'O', 'D', 'E'], .errOpcode)]

/-- The status an EXPECT operand names (R106). DESIGN CHOICE (notes/assumptions/9.md): R106 writes `EXPECT status` and does not
say how a status is written. The model reads the name of R95 in capitals and nothing else, so a numeric code or a name of
R96 is an assembly error. -/
def readStatus (t : List Char) : Option Status := (statusNames.find? fun p => p.1 == t).map Prod.snd

/-- A line with one number operand. -/
def readOne (f : Nat → AsmLine) (ops : List (List Char)) : Option AsmLine :=
  match ops with
  | [a] => (readNumber a).map f
  | _ => none

/-- A line with one byte operand. -/
def readOneByte (f : Nat → AsmLine) (ops : List (List Char)) : Option AsmLine :=
  match ops with
  | [a] => (readByte a).map f
  | _ => none

/-- A line with two number operands. -/
def readTwo (f : Nat → Nat → AsmLine) (ops : List (List Char)) : Option AsmLine :=
  match ops with
  | [a, b] =>
    match readNumber a, readNumber b with
    | some x, some y => some (f x y)
    | _, _ => none
  | _ => none

/-- The line of a mnemonic and the text after it. FEED and SENT read a quoted string, in which a comma is a character.
DESIGN CHOICE (notes/assumptions/9.md): mnemonics are in capitals, text left over is an assembly error, a SENT marker is a quoted
character, and a SENT body takes the escapes of FEED. -/
def readOperands (mnemonic rest : List Char) : Option AsmLine :=
  let ops := (splitCommas rest).map trimBlanks
  match mnemonic with
  | ['N', 'O', 'P'] => if rest = [] then some .nop else none
  | ['R', 'E', 'S', 'E', 'T'] => if rest = [] then some .reset else none
  | ['R', 'D', 'P', 'R'] => if rest = [] then some .rdpr else none
  | ['D', 'E', 'C', 'O', 'D', 'E'] => if rest = ['\'', ',', '\''] then some (.decode 0x2C) else readOneByte .decode ops
  | ['C', '6'] => if rest = ['\'', ',', '\''] then some (.c6 0x2C) else readOneByte .c6 ops
  | ['G', 'E', 'T', 'U'] => readTwo .getu ops
  | ['G', 'E', 'T', 'S'] => readTwo .gets ops
  | ['G', 'E', 'T', 'C'] => readTwo .getc ops
  | ['S', 'E', 'T', 'C', 'F', 'G'] => readTwo .setcfg ops
  | ['T', 'O', 'U', 'C', 'H'] => readTwo .touch ops
  | ['A', 'G', 'E'] => readTwo .age ops
  | ['T', 'I', 'C', 'K'] => readOne .tick ops
  | ['R', 'D', 'S', 'L', 'O', 'T'] => readOne .rdslot ops
  | ['R', 'D', 'F', 'I', 'F', 'O'] => readOne .rdfifo ops
  | ['F', 'E', 'E', 'D'] =>
    match rest with
    | '"' :: t => (readString t).map .feed
    | _ => none
  | ['S', 'E', 'N', 'T'] =>
    match rest with
    | '\'' :: m :: '\'' :: t =>
      match trimBlanks t with
      | ',' :: u =>
        match trimBlanks u with
        | '"' :: v => if m.toNat < 256 then (readString v).map (AsmLine.sent (BitVec.ofNat 8 m.toNat)) else none
        | _ => none
      | _ => none
    | _ => none
  | ['E', 'X', 'P', 'E', 'C', 'T'] => (readStatus rest).map .expect
  | _ => none

/-- One line of text (R105). DESIGN CHOICE (notes/assumptions/9.md): a space is the only blank, the mnemonic ends at the first
one, and a line that is empty or holds a comment is an assembly error. -/
def readLine (t : List Char) : Option AsmLine :=
  let t := trimBlanks t
  readOperands (t.takeWhile (· ≠ ' ')) (trimBlanks (t.dropWhile (· ≠ ' ')))

/-- The command words of one line of text, none for an assembly error (R105). -/
def assembleText (t : List Char) : Option (List CmdWord) :=
  match readLine t with
  | some l => l.assemble
  | none => none

end Sys2Proof.Machine
end

