-- ==== Sys2Proof/Safety.lean ====
section
/-! DEFINITION. What a safe state of the block is, in the terms the claims use: the legal values of every register
(spec/10_state.md R23 to R42), the invariants of R29 and R34, and the facts about a sentence in progress behind R123 and
R142. Also the statuses each command may return (spec/60_exceptions.md R292). -/

namespace Sys2Proof.Machine

/-! ## The sentence in progress -/

/-- The term buffer (R25, R126, R123). -/
structure Framer.BufferOk (f : Framer) : Prop where
  /-- At most TERM_CAP bytes (R61). -/
  bound : f.tbuf.length ≤ Config.termCap
  /-- Marked oversized only when full. -/
  full : f.tovf = true → f.tbuf.length = Config.termCap
  /-- No start marker, comma, star or terminator is ever stored (R123). -/
  plain : ∀ c ∈ f.tbuf, classify c = .ordinary

/-- The legal values of the staging registers (R27). -/
structure Staging.Legal (st : Staging) : Prop where
  total_le : st.total.toNat ≤ Config.maxTotal
  num_le : st.num.toNat ≤ st.total.toNat
  id_zero : st.idp = false → st.id = 0#8
  pay_bound : st.pay.length ≤ Config.termCap
  pay_plain : ∀ c ∈ st.pay, classify c = .ordinary
  fill_le : st.fill.toNat ≤ Config.fillMax

/-- In the body, the registers of terms not yet completed are 0 (R27 "not yet parsed"). -/
structure Sentence.NotYetParsed (s : Sentence) : Prop where
  total : s.fr.tidx.toNat ≤ 1 → s.st.total = 0#4
  num : s.fr.tidx.toNat ≤ 2 → s.st.num = 0#4
  idp : s.fr.tidx.toNat ≤ 3 → s.st.idp = false
  pay : s.fr.tidx.toNat ≤ 5 → s.st.pay = []
  fill : s.fr.tidx.toNat ≤ 5 → s.st.fill = 0#3

/-- While no failure is recorded, the completed terms passed their parse steps (R133 to R137), and a sentence in its
checksum section has its seven terms (R129). -/
structure Sentence.Parsed (s : Sentence) : Prop where
  seven : s.fr.cks = true → s.fr.tidx = 6#3
  total : 2 ≤ s.fr.tidx.toNat → 1 ≤ s.st.total.toNat
  num : 3 ≤ s.fr.tidx.toNat → 1 ≤ s.st.num.toNat
  idp : 4 ≤ s.fr.tidx.toNat → 1 < s.st.total.toNat → s.st.idp = true
  pay : 6 ≤ s.fr.tidx.toNat → s.st.pay ≠ []

/-- The framer and staging registers hold legal values. -/
structure Sentence.Ok (s : Sentence) : Prop where
  /-- Idle means reset (R29). -/
  idle : s.fr.done = true → s = sentenceReset true
  buffer : s.fr.BufferOk
  legal : s.st.Legal
  notYet : s.fr.cks = false → s.NotYetParsed
  parsed : s.fr.why = .ok → s.Parsed

/-! ## The FIFO, the payload register, the vessel table and the configuration -/

/-- One FIFO entry (R33, R34). -/
structure Partial.Ok (e : Partial) : Prop where
  /-- R34 (b). -/
  cnt_pos : 1 ≤ e.cnt.toNat
  /-- R34 (b). -/
  cnt_lt : e.cnt.toNat < e.total.toNat
  /-- R34 (b). -/
  total_le : e.total.toNat ≤ Config.maxTotal
  /-- R34 (c): `e.next - e.cnt >= 1`. -/
  cnt_lt_next : e.cnt.toNat < e.next.toNat
  /-- R34 (c). -/
  next_le : e.next.toNat ≤ e.total.toNat + 1
  /-- R34 (d). -/
  blen_le : e.buf.length ≤ e.cnt.toNat * Config.termCap
  /-- Every fragment brought at least one byte (R137, R142). -/
  cnt_le_blen : e.cnt.toNat ≤ e.buf.length

/-- The FIFO (R32, R34). -/
structure FifoOk (fifo : List Partial) : Prop where
  /-- At most FIFO_N entries (R32). -/
  bound : fifo.length ≤ Config.fifoN
  /-- No two entries of one id (R34 (a)). -/
  distinct : (fifo.map Partial.id).Nodup
  entries : ∀ e ∈ fifo, e.Ok

/-- The payload register (R35, R12 (e)). -/
structure Payload.Ok (p : Payload) : Prop where
  /-- Reset values until a payload completes. -/
  empty : p.valid = false → p = Payload.none
  /-- A completed payload has at least one character. -/
  nonempty : p.valid = true → 1 ≤ p.buf.length
  bound : p.buf.length ≤ Config.prCap
  fill_le : p.fill.toNat ≤ Config.fillMax

/-- A slot that is not live holds no stamp (R245, R246). -/
def Slot.Ok (x : Slot) : Prop := x.live = false → x.last = 0#32

/-- The invariant of the block: every state element holds a legal value. -/
structure State.Inv (s : State) : Prop where
  sentence : s.sentence.Ok
  fifo : FifoOk s.fifo
  payload : s.payload.Ok
  slots : ∀ x ∈ s.vessels.toList, x.Ok
  /-- `cfg_listmax` is 0 to VSLOTS (R42). -/
  listmax : s.cfg.listmax.toNat ≤ Config.vslots

/-! ## A whole sentence (R101, R131 to R138) -/

/-- The terms of a sentence body: the runs of bytes between its commas (R11 "term", R101). A body has one term more than it
has commas. -/
def splitTerms : List Byte → List (List Byte)
  | [] => [[]]
  | c :: rest =>
    match splitTerms rest with
    | [] => [[]]
    | t :: ts => if c = 0x2C#8 then [] :: t :: ts else (c :: t) :: ts

/-- Seven terms that each pass their parse step, none oversized (R128, R131 to R138). -/
def termsPass (terms : List (List Byte)) : Prop :=
  ∃ t1 t2 t3 t4 t5 t6, terms = [aivdm, t1, t2, t3, t4, t5, t6] ∧ (∀ t ∈ terms, t.length ≤ Config.termCap) ∧
    ∃ total num, dec t1 = some total ∧ 1 ≤ total ∧ total ≤ Config.maxTotal ∧ dec t2 = some num ∧ 1 ≤ num ∧ num ≤ total ∧
      (t3 = [] ∧ total = 1 ∨ ∃ id, dec t3 = some id ∧ id ≤ Config.idMax) ∧ t5 ≠ [] ∧
      ∃ c fill, t6 = [c] ∧ decDigit c = some fill ∧ fill ≤ Config.fillMax

/-! ## A sequence of fragments (R181) -/

/-- Give the fragments to ACCEPT one after another: what it leaves, and its outcomes in order. -/
def acceptAll : List Fragment → List Partial → Payload → List Partial × Payload × List Rstat
  | [], fifo, pr => (fifo, pr, [])
  | f :: rest, fifo, pr =>
    let a := accept f fifo pr
    let b := acceptAll rest a.fifo a.payload
    (b.1, b.2.1, a.rstat :: b.2.2)

/-! ## Running the block -/

/-- `o` is a next state that satisfies `P`: the block went on. -/
def nextSatisfies (o : Host.Outcome State Fault Refusal) (P : State → Prop) : Prop :=
  match o with
  | .next t => P t
  | .fault _ => False
  | .refused _ => False

/-- Perform a sequence of commands, one after the other, whole each (R69, R70). -/
def performAll : List Instr → State → Host.Outcome State Fault Refusal
  | [], s => .next s
  | i :: rest, s =>
    match exec i s with
    | .next t => performAll rest t
    | .fault r => .fault r
    | .refused r => .refused r

end Sys2Proof.Machine

namespace Sys2Proof
open Sys2Proof.Machine

/-! ## The statuses of each command (R292), illegal words apart -/

/-- The statuses the command may return. An illegal word of any opcode returns ERR_OPCODE (R272). -/
def Instr.mayReturn (i : Instr) : List Status :=
  match i with
  | .nop => [.ok]
  | .reset => [.ok]
  | .decode _ => [.ok, .fragment, .ignored, .errTerm, .errFormat, .errHex, .errChecksum]
  | .c6 _ => [.ok, .errArmor]
  | .getu _ _ => [.ok, .errNoPayload, .errArmor, .errRange, .errLength]
  | .gets _ _ => [.ok, .errNoPayload, .errArmor, .errRange, .errLength]
  | .getc _ _ => [.ok, .errNoPayload, .errArmor, .errRange, .errLength]
  | .setcfg _ _ => [.ok, .errRange]
  | .touch _ _ => [.ok, .errSlot]
  | .age _ _ => [.ok, .errSlot]
  | .tick _ => [.ok]
  | .rdslot _ => [.ok, .errSlot]
  | .rdfifo _ => [.ok, .errSlot]
  | .rdpr => [.ok]
  | .reservedE _ => [.errOpcode]
  | .reservedF _ => [.errOpcode]

/-- The commands that change no state (R68), with the reserved opcodes (R272). -/
def Instr.readsOnly (i : Instr) : Bool :=
  match i with
  | .nop => true
  | .reset => false
  | .decode _ => false
  | .c6 _ => true
  | .getu _ _ => true
  | .gets _ _ => true
  | .getc _ _ => true
  | .setcfg _ _ => false
  | .touch _ _ => false
  | .age _ _ => true
  | .tick _ => false
  | .rdslot _ => true
  | .rdfifo _ => true
  | .rdpr => true
  | .reservedE _ => true
  | .reservedF _ => true

end Sys2Proof
end

