-- ==== Sys2Proof/Certificates/Slice0/Obligations.lean ====
section
/-! DEFINITION. The statements for the provers. Results and next states are written out, so that a statement does not
repeat the model's shared operations. -/

namespace Sys2Proof.Claims
open Sys2Proof.Machine

/-- The result record `(status, value, rstat)` with STR_MAX zero bytes of `str` (R94). -/
abbrev record (status : Status) (value : Value) (rstat : Rstat) : Result :=
  { status := status, value := value, rstat := rstat, str := List.replicate 20 0x00#8 }

/-- The result record `(status, value, R_NONE)` of a block with the parameters `p` (R94, R7). -/
abbrev recordFor (p : Params) (status : Status) (value : Value) : Result :=
  { status := status, value := value, rstat := .none, str := List.replicate p.strMax 0x00#8 }

/-- The command goes on to state `t`, its result record `r` returned after all earlier ones. -/
abbrev answers {p : Params} (t : State p) (r : Result) : Host.Outcome (State p) Fault Refusal :=
  .next { t with results := t.results ++ [r] }

/-- The sentence with failure cause `why`, all else the same. -/
abbrev withCause (why : Cause) (s : Sentence) : Sentence := { s with fr := { s.fr with why := why } }

/-- The framer and staging registers after a sentence reset with completion value `done`, register by register (R28). -/
abbrev resetSentence (done : Bool) : Sentence :=
  { fr := { done := done, cks := false, why := .ok, tidx := 0#3, tbuf := [], tovf := false, acc := 0x00#8 }
    st := { total := 0#4, num := 0#4, idp := false, id := 0x00#8, pay := [], fill := 0#3 } }

/-- A body byte of R147: no start marker, star or terminator. Commas are allowed. -/
abbrev bodyByte (c : Byte) : Prop := c ≠ 0x24#8 ∧ c ≠ 0x21#8 ∧ c ≠ 0x2A#8 ∧ c ≠ 0x0D#8 ∧ c ≠ 0x0A#8

/-- Bit `k` is reserved in the format of opcode `op` (R82, R83). -/
def reservedBit (op k : Nat) : Prop :=
  (op ∈ [0x0, 0x1, 0xD] ∧ k ≤ 59) ∨
  (op ∈ [0x2, 0x3] ∧ 8 ≤ k ∧ k ≤ 59) ∨
  (op ∈ [0x4, 0x5, 0x6] ∧ (28 ≤ k ∧ k ≤ 59 ∨ 12 ≤ k ∧ k ≤ 15)) ∨
  (op ∈ [0x8, 0x9, 0xA, 0xB, 0xC] ∧ 40 ≤ k ∧ k ≤ 59) ∨
  (op = 0x7 ∧ 24 ≤ k ∧ k ≤ 59)

/-- The four clauses of R89, on the numbers of the word's fields. -/
def illegalByRule (w : CmdWord) : Prop :=
  let op := w.toNat / 2 ^ 60
  op = 0xE ∨ op = 0xF ∨ (∃ k, reservedBit op k ∧ w.getLsbD k = true) ∨
    (op = 0xA ∧ w.toNat / 2 ^ 32 % 2 ^ 8 ≠ 0) ∨ ((op = 0xB ∨ op = 0xC) ∧ w.toNat % 2 ^ 32 ≠ 0)

/-- The payload can be read from `lo` to `hi` (R205, the checks that do not look at the width). -/
def readable (p : Payload) (lo hi : BitVec 12) : Prop :=
  p.valid = true ∧ (∀ c ∈ p.buf, (six c).isSome = true) ∧ lo.toNat ≤ hi.toNat ∧
    hi.toNat ≤ 6 * p.buf.length - p.fill.toNat

/-- `st` is the status of the first operand check of R205 that fails, for a width limit `tooWide`. -/
def checkFails (p : Payload) (lo hi : BitVec 12) (tooWide : Prop) (st : Status) : Prop :=
  (st = .errNoPayload ∧ p.valid = false) ∨
  (st = .errArmor ∧ p.valid = true ∧ ∃ c ∈ p.buf, six c = none) ∨
  (st = .errRange ∧ p.valid = true ∧ (∀ c ∈ p.buf, six c ≠ none) ∧ (hi.toNat < lo.toNat ∨ tooWide)) ∨
  (st = .errLength ∧ p.valid = true ∧ (∀ c ∈ p.buf, six c ≠ none) ∧ lo.toNat ≤ hi.toNat ∧ ¬ tooWide ∧
    6 * p.buf.length - p.fill.toNat < hi.toNat)

/-- The field value of R206: bit `lo` is the most significant. -/
def fieldSum (buf : List Byte) (lo hi : Nat) : Nat := ∑ i ∈ Finset.Ico lo hi, payloadBit buf i * 2 ^ (hi - 1 - i)

/-- The eviction condition of R241 in exact arithmetic: the age modulo 2^32 exceeds the timeout in milliseconds. -/
def tooOld (timeout : BitVec 16) (now last : BitVec 32) : Prop :=
  ((now.toNat : Int) - (last.toNat : Int)) % 2 ^ 32 > (timeout.toNat : Int) * 1000

/-- The condition of R241 for timestamps of `p.tsW` bits and a timeout of `p.toW` bits, at the 32-bit time operand `now`. -/
def tooOldFor (p : Params) (timeout : Seconds p) (now : BitVec 32) (last : Millis p) : Prop :=
  ((now.toNat : Int) - (last.toNat : Int)) % 2 ^ p.tsW > (timeout.toNat : Int) * 1000

/-- The checksum field is two uppercase hex digits of value `n`, high digit first (R140, R141). -/
def hexField (t : List Byte) (n : Nat) : Prop :=
  ∃ a b x y, t = [a, b] ∧ hexDigit a = some x ∧ hexDigit b = some y ∧ n = 16 * x + y

/-- The command word with opcode `op` and the number `rest` in its other 60 bits (R81, R82). -/
abbrev asmWord (op rest : Nat) : CmdWord := BitVec.ofNat 64 (op * 2 ^ 60 + rest)

/-- The line assembles to the words `ws` when its operands fit, and to nothing when one does not (R105). -/
abbrev assemblesTo (l : AsmLine) (fits : Prop) (ws : List CmdWord) : Prop :=
  (fits → l.assemble = some ws) ∧ (¬ fits → l.assemble = none)

/-- One DECODE word for each byte, in order (R106). -/
abbrev decodeWords (bytes : List Byte) : List CmdWord := bytes.map fun c => asmWord 0x2 c.toNat

/-- Both states agree on everything but the port's queues. -/
def sameBlock (s t : State) : Prop :=
  s.sentence = t.sentence ∧ s.fifo = t.fifo ∧ s.payload = t.payload ∧ s.vessels = t.vessels ∧ s.cfg = t.cfg

end Sys2Proof.Claims

open Sys2Proof Sys2Proof.Machine Sys2Proof.Claims

/-! ## Reset and the invariant -/

/-- R320: the value of every state element after power-on. The bytes of a buffer past its length, which R320 calls never
observable, are not held (notes/assumptions/1.md). -/
def Obligations.ResetStateIsIdleAndEmpty : Prop :=
  State.reset.sentence.fr.done = true ∧ State.reset.sentence.fr.cks = false ∧ State.reset.sentence.fr.why = .ok ∧
  State.reset.sentence.fr.tidx = 0#3 ∧ State.reset.sentence.fr.tbuf = [] ∧ State.reset.sentence.fr.tovf = false ∧
  State.reset.sentence.fr.acc = 0x00#8 ∧ State.reset.sentence.st.total = 0#4 ∧ State.reset.sentence.st.num = 0#4 ∧
  State.reset.sentence.st.idp = false ∧ State.reset.sentence.st.id = 0#8 ∧ State.reset.sentence.st.pay = [] ∧
  State.reset.sentence.st.fill = 0#3 ∧ State.reset.fifo = [] ∧ State.reset.payload.valid = false ∧
  State.reset.payload.fill = 0#3 ∧ State.reset.payload.buf = [] ∧
  (∀ i, i < 32 → State.reset.vessels[i]? = some { live := false, last := 0#32 }) ∧
  State.reset.cfg.timeout = 0#16 ∧ State.reset.cfg.listmax = 0#8

/-- The invariant holds right after reset (R29, R34 and the legal values of 10_state.md). -/
def Obligations.ResetStateMeetsInvariant : Prop := State.reset.Inv

/-- Headline: from every state that meets the invariant, a step gives a state that meets it. It holds all of R29 and R34:
idle means reset, ids are distinct, counters keep their order and buffers their capacity. -/
def Obligations.EveryStepKeepsInvariant : Prop := ∀ s t : State, s.Inv → step s = .next t → t.Inv

/-! ## Encoding -/

/-- Headline: every command decodes from its own word, each operand at every value (R82, R83, R105). -/
def Obligations.EncodedCommandsDecodeBack : Prop := ∀ i : Instr, decodeWord (encode i) = .instr i

/-- A word the decoder reads is the word of that command and of no other: no bit of it is dropped. -/
def Obligations.DecodedWordsEncodeBack : Prop := ∀ (w : CmdWord) (i : Instr), decodeWord w = .instr i → encode i = w

/-- R107 and the words of 95_test_vectors.md: one word of each opcode, read as the command it stands for. -/
def Obligations.WorkedWordsDecode : Prop :=
  decodeWord 0x0000000000000000#64 = .instr .nop ∧
  decodeWord 0x1000000000000000#64 = .instr .reset ∧
  decodeWord 0x2000000000000021#64 = .instr (.decode 0x21#8) ∧
  decodeWord 0x200000000000000D#64 = .instr (.decode 0x0D#8) ∧
  decodeWord 0x3000000000000057#64 = .instr (.c6 0x57#8) ∧
  decodeWord 0x4000000000260008#64 = .instr (.getu 8#12 38#12) ∧
  decodeWord 0x500000000059003D#64 = .instr (.gets 61#12 89#12) ∧
  decodeWord 0x6000000000E80070#64 = .instr (.getc 112#12 232#12) ∧
  decodeWord 0x700000000004000A#64 = .instr (.setcfg 10#16 4#8) ∧
  decodeWord 0x80000002000003E8#64 = .instr (.touch 2#8 1000#32) ∧
  decodeWord 0x9000000200002AF9#64 = .instr (.age 2#8 11001#32) ∧
  decodeWord 0xA000000000002AF9#64 = .instr (.tick 11001#32) ∧
  decodeWord 0xB000000200000000#64 = .instr (.rdslot 2#8) ∧
  decodeWord 0xC000000900000000#64 = .instr (.rdfifo 9#8) ∧
  decodeWord 0xD000000000000000#64 = .instr .rdpr

/-- R89 and R272: exactly the words of the four clauses are illegal. An illegal word returns ERR_OPCODE and changes no state,
and every other word is one of the named commands and runs as it. -/
def Obligations.IllegalWordsReturnErrOpcode : Prop :=
  ∀ (s : State) (w : CmdWord) (rest : List CmdWord), s.pending = w :: rest →
    (illegalByRule w → step s = answers { s with pending := rest } (record .errOpcode 0#32 .none)) ∧
    (¬ illegalByRule w →
      ∃ i : Instr, i.wellFormed = true ∧ decodeWord w = .instr i ∧ step s = exec i { s with pending := rest })

/-- R105 and R106, line form by line form: the operands that fit their fields, the words that result, and an assembly error for
every other operand. FEED gives one DECODE for each byte. SENT gives the marker, the body, `*`, the two uppercase hex digits of
the XOR of the body and CR LF, for the two start markers only. EXPECT gives no command. The words decode to the commands of the
line. The text of a line is not part of this statement (notes/assumptions/9.md). -/
def Obligations.AssembledLinesDecodeToTheirCommands : Prop :=
  assemblesTo .nop True [asmWord 0x0 0] ∧
  assemblesTo .reset True [asmWord 0x1 0] ∧
  (∀ c, assemblesTo (.decode c) (c < 256) [asmWord 0x2 c]) ∧
  (∀ c, assemblesTo (.c6 c) (c < 256) [asmWord 0x3 c]) ∧
  (∀ lo hi, assemblesTo (.getu lo hi) (lo < 4096 ∧ hi < 4096) [asmWord 0x4 (hi * 2 ^ 16 + lo)]) ∧
  (∀ lo hi, assemblesTo (.gets lo hi) (lo < 4096 ∧ hi < 4096) [asmWord 0x5 (hi * 2 ^ 16 + lo)]) ∧
  (∀ lo hi, assemblesTo (.getc lo hi) (lo < 4096 ∧ hi < 4096) [asmWord 0x6 (hi * 2 ^ 16 + lo)]) ∧
  (∀ timeout listmax, assemblesTo (.setcfg timeout listmax) (timeout < 65536 ∧ listmax < 256)
    [asmWord 0x7 (listmax * 2 ^ 16 + timeout)]) ∧
  (∀ slot t, assemblesTo (.touch slot t) (slot < 256 ∧ t < 4294967296) [asmWord 0x8 (slot * 2 ^ 32 + t)]) ∧
  (∀ slot now, assemblesTo (.age slot now) (slot < 256 ∧ now < 4294967296) [asmWord 0x9 (slot * 2 ^ 32 + now)]) ∧
  (∀ now, assemblesTo (.tick now) (now < 4294967296) [asmWord 0xA now]) ∧
  (∀ slot, assemblesTo (.rdslot slot) (slot < 256) [asmWord 0xB (slot * 2 ^ 32)]) ∧
  (∀ pos, assemblesTo (.rdfifo pos) (pos < 256) [asmWord 0xC (pos * 2 ^ 32)]) ∧
  assemblesTo .rdpr True [asmWord 0xD 0] ∧
  (∀ bytes, assemblesTo (.feed bytes) True (decodeWords bytes)) ∧
  (∀ m body, ∃ h1 h2, hexField [h1, h2] (body.foldl (fun acc c => acc ^^^ c) 0x00#8).toNat ∧
    assemblesTo (.sent m body) (m = 0x21#8 ∨ m = 0x24#8)
      (decodeWords (m :: (body ++ [0x2A#8, h1, h2, 0x0D#8, 0x0A#8])))) ∧
  (∀ status, assemblesTo (.expect status) True []) ∧
  ∀ (l : AsmLine) (ws : List CmdWord), l.assemble = some ws → ws.map decodeWord = l.expand.map Decoded.instr

/-! ## The step -/

/-- A step takes the first command word from the port and runs the command it decodes to. With no word on the port it waits
in the same state, which is the model's reading of "it waits for the first command" (notes/assumptions/3.md). -/
def Obligations.StepRunsDecodedCommand : Prop :=
  (∀ (s : State) (w : CmdWord) (rest : List CmdWord) (i : Instr), s.pending = w :: rest → decodeWord w = .instr i →
    step s = exec i { s with pending := rest }) ∧
  (∀ s : State, s.pending = [] → step s = .next s)

/-- R80: one command word from the host, one result record from the block, and never a stop. -/
def Obligations.EachWordReturnsOneResult : Prop :=
  ∀ (s : State) (w : CmdWord) (rest : List CmdWord), s.pending = w :: rest →
    ∃ t r, step s = .next t ∧ t.pending = rest ∧ t.results = s.results ++ [r]

/-- R94: what a result record holds, for every command in every state. On an error the value is 0, the outcome R_NONE and the
string zero. Only DECODE reports an outcome and only GETC a string. -/
def Obligations.ResultRecordForm : Prop :=
  ∀ (i : Instr) (s : State), ∃ t r, exec i s = .next t ∧ t.pending = s.pending ∧ t.results = s.results ++ [r] ∧
    r.str.length = 20 ∧
    (r.status.isError = true → r.value = 0#32 ∧ r.rstat = .none ∧ r.str = List.replicate 20 0x00#8) ∧
    ((∀ c, i ≠ .decode c) → r.rstat = .none) ∧
    ((∀ lo hi, i ≠ .getc lo hi) → r.str = List.replicate 20 0x00#8)

/-- The codes of R95 and R96, and the outcomes with which a payload completes. -/
def Obligations.ResultCodesMatchTheirTables : Prop :=
  [Status.ok, .fragment, .ignored, .errTerm, .errFormat, .errHex, .errChecksum, .errNoPayload, .errArmor, .errRange,
    .errLength, .errSlot, .errOpcode].map Status.code =
    [0x0#4, 0x1#4, 0x2#4, 0x3#4, 0x4#4, 0x5#4, 0x6#4, 0x7#4, 0x8#4, 0x9#4, 0xA#4, 0xB#4, 0xC#4] ∧
  [Rstat.none, .single, .new, .newEvict, .append, .complete, .discard].map Rstat.code =
    [0#3, 1#3, 2#3, 3#3, 4#3, 5#3, 6#3] ∧
  ∀ r : Rstat, r.completes = true ↔ r.code = 1#3 ∨ r.code = 5#3

/-- The status table of R292: no command returns a status outside its row, for every command in every state. -/
def Obligations.CommandsReturnListedStatuses : Prop :=
  ∀ (i : Instr) (s : State), ∃ t r, exec i s = .next t ∧ t.results = s.results ++ [r] ∧ r.status ∈ i.mayReturn

/-- R294: an error writes no state, with one exception: a DECODE that closes a failed sentence resets the framer.
An illegal word, which is no command, changes nothing. -/
def Obligations.ErrorsWriteNoState : Prop :=
  (∀ (i : Instr) (s t : State) (r : Result), exec i s = .next t → t.results = s.results ++ [r] → r.status.isError = true →
    ((∀ c, i ≠ .decode c) → t = { s with results := s.results ++ [r] }) ∧
    (∀ c, i = .decode c → t = { s with sentence := resetSentence true, results := s.results ++ [r] })) ∧
  ∀ (s : State) (w : CmdWord) (rest : List CmdWord) (why : Illegal), s.pending = w :: rest → decodeWord w = .illegal why →
    step s = answers { s with pending := rest } (record .errOpcode 0#32 .none)

/-- The reads of R68 and the reserved opcodes: NOP, C6, GETU, GETS, GETC, AGE, RDSLOT, RDFIFO and RDPR return a result and
change nothing else. TOUCH and SETCFG are idempotent: a repetition gives the same block state and the same result. -/
def Obligations.ReadsChangeNothingAndWritesRepeat : Prop :=
  (∀ (i : Instr) (s : State), i.readsOnly = true → ∃ r, exec i s = .next { s with results := s.results ++ [r] }) ∧
  (∀ (i : Instr) (s : State), ((∃ slot time, i = .touch slot time) ∨ (∃ timeout listmax, i = .setcfg timeout listmax)) →
    ∃ t u r, exec i s = .next t ∧ t.results = s.results ++ [r] ∧ exec i t = .next u ∧ u.results = t.results ++ [r] ∧
      sameBlock t u)

/-- The access matrix of R47: each state group changes only under the commands its row lets write it. So the phase of R44,
the flags and the staging registers change only under DECODE and RESET. -/
def Obligations.OnlyListedCommandsWriteAGroup : Prop :=
  ∀ (i : Instr) (s t : State), exec i s = .next t →
    ((∀ c, i ≠ .decode c) → i ≠ .reset →
      t.sentence = s.sentence ∧ t.fifo = s.fifo ∧ t.payload = s.payload ∧ t.sentence.fr.phase = s.sentence.fr.phase) ∧
    ((∀ slot time, i ≠ .touch slot time) → (∀ now, i ≠ .tick now) → i ≠ .reset → t.vessels = s.vessels) ∧
    ((∀ timeout listmax, i ≠ .setcfg timeout listmax) → i ≠ .reset → t.cfg = s.cfg)

/-- A command's effect depends on its word and the block's state alone: on two states with the same block, whatever words wait
and whatever results were returned, a command leaves the same block and returns the same result (R70, R94). -/
def Obligations.PortQueuesNeverInfluenceCommands : Prop :=
  ∀ (i : Instr) (s t : State), sameBlock s t →
    ∃ s' t' r, exec i s = .next s' ∧ exec i t = .next t' ∧ sameBlock s' t' ∧ s'.results = s.results ++ [r] ∧
      t'.results = t.results ++ [r]

/-! ## Control commands -/

/-- R270. -/
def Obligations.NopReturnsOk : Prop :=
  decodeWord (0x0#4 ++ 0#60 : BitVec 64) = .instr .nop ∧
  ∀ s : State, exec .nop s = answers s (record .ok 0#32 .none)

/-- R271: the block after RESET is the block after power-on, whatever it was before. -/
def Obligations.ResetCommandEqualsPowerOn : Prop :=
  decodeWord (0x1#4 ++ 0#60 : BitVec 64) = .instr .reset ∧
  ∀ s : State, ∃ t, exec .reset s = answers t (record .ok 0#32 .none) ∧ sameBlock t State.reset ∧
    t.pending = s.pending ∧ t.results = s.results

/-- The opcodes 0xE and 0xF return ERR_OPCODE and write nothing, whatever their other bits are (R89 (a), R272). -/
def Obligations.ReservedOpcodesReturnErrOpcode : Prop :=
  ∀ (rest : BitVec 60) (s : State),
    exec (.reservedE rest) s = answers s (record .errOpcode 0#32 .none) ∧
    exec (.reservedF rest) s = answers s (record .errOpcode 0#32 .none)

/-- R273: the descriptor of the entry at a position, 0 where there is none, ERR_SLOT past the FIFO. The entry's length fits its
field, as in every state of the invariant. -/
def Obligations.RdfifoReturnsDescriptor : Prop :=
  ∀ (pos : BitVec 8) (s : State),
    decodeWord (0xC#4 ++ (0#20 ++ (pos ++ 0#32)) : BitVec 64) = .instr (.rdfifo pos) ∧
    (10 ≤ pos.toNat → exec (.rdfifo pos) s = answers s (record .errSlot 0#32 .none)) ∧
    (pos.toNat < 10 → s.fifo.length ≤ pos.toNat → exec (.rdfifo pos) s = answers s (record .ok 0#32 .none)) ∧
    (∀ e, pos.toNat < 10 → s.fifo[pos.toNat]? = some e → e.buf.length ≤ 576 →
      ∃ v : Value, exec (.rdfifo pos) s = answers s (record .ok v .none) ∧
        v.toNat = 2 ^ 31 + e.buf.length * 2 ^ 20 + e.cnt.toNat * 2 ^ 16 + e.next.toNat * 2 ^ 12 + e.total.toNat * 2 ^ 8 +
          e.id.toNat)

/-! ## The eviction comparator -/

/-- R240: SETCFG writes both registers, or neither when LISTMAX exceeds VSLOTS, and nothing else. -/
def Obligations.SetcfgWritesBothOrNeither : Prop :=
  ∀ (timeout : BitVec 16) (listmax : BitVec 8) (s : State),
    decodeWord (0x7#4 ++ (0#36 ++ (listmax ++ timeout)) : BitVec 64) = .instr (.setcfg timeout listmax) ∧
    (listmax.toNat ≤ 32 → exec (.setcfg timeout listmax) s =
      answers { s with cfg := { timeout := timeout, listmax := listmax } } (record .ok 0#32 .none)) ∧
    (32 < listmax.toNat → exec (.setcfg timeout listmax) s = answers s (record .errRange 0#32 .none))

/-- R242: TOUCH marks one slot live and stamps it. Every other slot and every other group is as before. -/
def Obligations.TouchStampsOneSlot : Prop :=
  ∀ (slot : BitVec 8) (time : BitVec 32) (s : State),
    decodeWord (0x8#4 ++ (0#20 ++ (slot ++ time)) : BitVec 64) = .instr (.touch slot time) ∧
    (slot.toNat < 32 → slot.toNat < s.cfg.listmax.toNat →
      ∃ v : Vector Slot 32, exec (.touch slot time) s = answers { s with vessels := v } (record .ok 0#32 .none) ∧
        v[slot.toNat]? = some { live := true, last := time } ∧
        ∀ k, k ≠ slot.toNat → v[k]? = s.vessels[k]?) ∧
    (32 ≤ slot.toNat ∨ s.cfg.listmax.toNat ≤ slot.toNat →
      exec (.touch slot time) s = answers s (record .errSlot 0#32 .none))

/-- R243 and R241: AGE reports liveness in bit 1 and the exact age comparison in bit 0, and writes nothing. -/
def Obligations.AgeEvaluatesComparator : Prop :=
  ∀ (slot : BitVec 8) (now : BitVec 32) (s : State),
    decodeWord (0x9#4 ++ (0#20 ++ (slot ++ now)) : BitVec 64) = .instr (.age slot now) ∧
    (32 ≤ slot.toNat → exec (.age slot now) s = answers s (record .errSlot 0#32 .none)) ∧
    (∀ x, s.vessels[slot.toNat]? = some x →
      ∃ v : Value, exec (.age slot now) s = answers s (record .ok v .none) ∧
        (v.getLsbD 0 = true ↔ tooOld s.cfg.timeout now x.last) ∧ v.getLsbD 1 = x.live ∧
        ∀ k, 2 ≤ k → v.getLsbD k = false)

/-- R245 and R241: TICK clears exactly the live slots whose age exceeds the timeout, reports exactly those in the mask, and
keeps every other slot and every other group. -/
def Obligations.TickEvictsExactlyExpiredSlots : Prop :=
  ∀ (now : BitVec 32) (s : State),
    decodeWord (0xA#4 ++ (0#20 ++ (0#8 ++ now)) : BitVec 64) = .instr (.tick now) ∧
    ∃ (v : Vector Slot 32) (mask : Value),
      exec (.tick now) s = answers { s with vessels := v } (record .ok mask .none) ∧
      ∀ k x, s.vessels[k]? = some x →
        (x.live = true ∧ tooOld s.cfg.timeout now x.last →
          v[k]? = some { live := false, last := 0#32 } ∧ mask.getLsbD k = true) ∧
        (¬ (x.live = true ∧ tooOld s.cfg.timeout now x.last) → v[k]? = some x ∧ mask.getLsbD k = false)

/-- R246: RDSLOT reads the stamp, and in every state of the invariant a slot that is not live reads 0. -/
def Obligations.RdslotReadsStamp : Prop :=
  ∀ (slot : BitVec 8) (s : State),
    decodeWord (0xB#4 ++ (0#20 ++ (slot ++ 0#32)) : BitVec 64) = .instr (.rdslot slot) ∧
    (32 ≤ slot.toNat → exec (.rdslot slot) s = answers s (record .errSlot 0#32 .none)) ∧
    (∀ x, s.vessels[slot.toNat]? = some x →
      exec (.rdslot slot) s = answers s (record .ok x.last .none) ∧
      (s.Inv → x.live = false → exec (.rdslot slot) s = answers s (record .ok 0#32 .none)))

/-- The boundary of R244: a slot touched at `T0` survives the TICK at `T0 + 1000 × timeout` and is evicted by the one a
millisecond later, both modulo 2^32. A second TICK at the same time evicts nothing (R245). -/
def Obligations.TimeoutBoundaryIsExact : Prop :=
  ∀ (slot : BitVec 8) (t0 : BitVec 32) (s : State), slot.toNat < 32 → slot.toNat < s.cfg.listmax.toNat →
    ∃ t u v,
      exec (.touch slot t0) s = .next t ∧
      exec (.tick (t0 + BitVec.ofNat 32 (1000 * s.cfg.timeout.toNat))) t = .next u ∧
      u.vessels[slot.toNat]? = some { live := true, last := t0 } ∧
      exec (.tick (t0 + BitVec.ofNat 32 (1000 * s.cfg.timeout.toNat + 1))) t = .next v ∧
      v.vessels[slot.toNat]? = some { live := false, last := 0#32 } ∧
      exec (.tick (t0 + BitVec.ofNat 32 (1000 * s.cfg.timeout.toNat + 1))) v = answers v (record .ok 0#32 .none)

/-- R247: the live slots stay below `cfg_listmax` under every command, unless a SETCFG that is accepted lowers it. -/
def Obligations.LiveSlotsStayBelowListmax : Prop :=
  ∀ (i : Instr) (s t : State), exec i s = .next t → s.cfg.listmax.toNat ≤ t.cfg.listmax.toNat ∨ i = .reset →
    (∀ k x, s.vessels[k]? = some x → x.live = true → k < s.cfg.listmax.toNat) →
    ∀ k x, t.vessels[k]? = some x → x.live = true → k < t.cfg.listmax.toNat

/-! ## The extractor -/

/-- C6 maps the two armor bands to 0 to 39 and 40 to 63 and refuses every other byte. The bands are the spec's own, from
general knowledge (93_implementation_defined.md G1). -/
def Obligations.C6MapsTheTwoArmorBands : Prop :=
  ∀ (c : Byte) (s : State),
    decodeWord (0x3#4 ++ (0#52 ++ c) : BitVec 64) = .instr (.c6 c) ∧
    (0x30 ≤ c.toNat ∧ c.toNat ≤ 0x57 → exec (.c6 c) s = answers s (record .ok (BitVec.ofNat 32 (c.toNat - 0x30)) .none)) ∧
    (0x60 ≤ c.toNat ∧ c.toNat ≤ 0x77 → exec (.c6 c) s = answers s (record .ok (BitVec.ofNat 32 (c.toNat - 0x38)) .none)) ∧
    (c.toNat < 0x30 ∨ 0x57 < c.toNat ∧ c.toNat < 0x60 ∨ 0x77 < c.toNat →
      exec (.c6 c) s = answers s (record .errArmor 0#32 .none))

/-- The text alphabet of R202: values below 32 are `'@'` to `'_'`, the others space to `'?'`. The mapping is the spec's own, from
general knowledge (93_implementation_defined.md G2). -/
def Obligations.TextAlphabetMapsSixBitValues : Prop :=
  ∀ v : BitVec 6, (v.toNat < 32 → (ascii6 v).toNat = v.toNat + 0x40) ∧ (32 ≤ v.toNat → (ascii6 v).toNat = v.toNat)

/-- R203 and the bit order of R62: the most-significant bit of character `j` is stream bit `6j`, and so on down to its
least-significant bit at `6j + 5`. -/
def Obligations.StreamBitsAreBigEndian : Prop :=
  ∀ (buf : List Byte) (j b : Nat) (c : Byte) (v : BitVec 6), b < 6 → buf[j]? = some c → six c = some v →
    payloadBit buf (6 * j + b) = if v.getMsbD b then 1 else 0

/-- R211 with R206: the unsigned field is the sum of its bits, bit LO the most significant, exact at every width up to 32.
The first operand check of R205 that fails gives the status. -/
def Obligations.GetuReturnsUnsignedField : Prop :=
  ∀ (lo hi : BitVec 12) (s : State),
    decodeWord (0x4#4 ++ (0#32 ++ (hi ++ (0#4 ++ lo))) : BitVec 64) = .instr (.getu lo hi) ∧
    (∀ st, checkFails s.payload lo hi (32 < hi.toNat - lo.toNat) st →
      exec (.getu lo hi) s = answers s (record st 0#32 .none)) ∧
    (readable s.payload lo hi → hi.toNat - lo.toNat ≤ 32 →
      ∃ v : Value, exec (.getu lo hi) s = answers s (record .ok v .none) ∧
        v.toNat = fieldSum s.payload.buf lo.toNat hi.toNat)

/-- R212: the signed field. Read as a two's-complement number the result is `u − 2^w` when bit `w − 1` of the field is 1, and
`u` otherwise. The first operand check of R205 that fails gives the status. -/
def Obligations.GetsReturnsSignedField : Prop :=
  ∀ (lo hi : BitVec 12) (s : State),
    decodeWord (0x5#4 ++ (0#32 ++ (hi ++ (0#4 ++ lo))) : BitVec 64) = .instr (.gets lo hi) ∧
    (∀ st, checkFails s.payload lo hi (32 < hi.toNat - lo.toNat) st →
      exec (.gets lo hi) s = answers s (record st 0#32 .none)) ∧
    (readable s.payload lo hi → hi.toNat - lo.toNat ≤ 32 →
      ∃ v : Value, exec (.gets lo hi) s = answers s (record .ok v .none) ∧
        v.toInt =
          if 0 < hi.toNat - lo.toNat ∧ 2 ^ (hi.toNat - lo.toNat - 1) ≤ fieldSum s.payload.buf lo.toNat hi.toNat then
            (fieldSum s.payload.buf lo.toNat hi.toNat : Int) - 2 ^ (hi.toNat - lo.toNat)
          else (fieldSum s.payload.buf lo.toNat hi.toNat : Int))

/-- R213: the text of `n` characters without its trailing `'@'` and spaces, NUL-padded to STR_MAX bytes, its length in the
value. A fill character before the last other character is kept. The first operand check of R205 that fails gives the
status. -/
def Obligations.GetcReturnsTrimmedText : Prop :=
  ∀ (lo hi : BitVec 12) (s : State),
    decodeWord (0x6#4 ++ (0#32 ++ (hi ++ (0#4 ++ lo))) : BitVec 64) = .instr (.getc lo hi) ∧
    (∀ st, checkFails s.payload lo hi ((hi.toNat - lo.toNat) % 6 ≠ 0 ∨ 20 < (hi.toNat - lo.toNat) / 6) st →
      exec (.getc lo hi) s = answers s (record st 0#32 .none)) ∧
    (∀ n, readable s.payload lo hi → hi.toNat - lo.toNat = 6 * n → n ≤ 20 →
      ∃ (m : Nat) (ch : Nat → Byte), m ≤ n ∧
        (∀ k, k < n → ch k =
          ascii6 (BitVec.ofNat 6 (fieldSum s.payload.buf (lo.toNat + 6 * k) (lo.toNat + 6 * k + 6)))) ∧
        (∀ k, m ≤ k → k < n → ch k = 0x40#8 ∨ ch k = 0x20#8) ∧
        (0 < m → ch (m - 1) ≠ 0x40#8 ∧ ch (m - 1) ≠ 0x20#8) ∧
        exec (.getc lo hi) s = answers s
          { status := .ok, value := BitVec.ofNat 32 m, rstat := .none
            str := (List.range 20).map fun k => if k < m then ch k else 0x00#8 })

/-- R205: the operand checks of the three extractions in their order. The first that fails gives the status, and with none
failing the status is OK. Nothing is written. -/
def Obligations.ExtractionChecksInOrder : Prop :=
  ∀ (lo hi : BitVec 12) (s : State) (i : Instr), i ∈ [Instr.getu lo hi, .gets lo hi, .getc lo hi] →
    (s.payload.valid = false → exec i s = answers s (record .errNoPayload 0#32 .none)) ∧
    (s.payload.valid = true → (∃ c ∈ s.payload.buf, six c = none) →
      exec i s = answers s (record .errArmor 0#32 .none)) ∧
    (s.payload.valid = true → (∀ c ∈ s.payload.buf, six c ≠ none) →
      (hi.toNat < lo.toNat ∨ (i ≠ .getc lo hi ∧ 32 < hi.toNat - lo.toNat) ∨
        (i = .getc lo hi ∧ ((hi.toNat - lo.toNat) % 6 ≠ 0 ∨ 20 < (hi.toNat - lo.toNat) / 6))) →
      exec i s = answers s (record .errRange 0#32 .none)) ∧
    (s.payload.valid = true → (∀ c ∈ s.payload.buf, six c ≠ none) →
      ¬ (hi.toNat < lo.toNat ∨ (i ≠ .getc lo hi ∧ 32 < hi.toNat - lo.toNat) ∨
        (i = .getc lo hi ∧ ((hi.toNat - lo.toNat) % 6 ≠ 0 ∨ 20 < (hi.toNat - lo.toNat) / 6))) →
      (6 * s.payload.buf.length - s.payload.fill.toNat < hi.toNat →
        exec i s = answers s (record .errLength 0#32 .none)) ∧
      (hi.toNat ≤ 6 * s.payload.buf.length - s.payload.fill.toNat →
        ∃ v str, exec i s = answers s { status := .ok, value := v, rstat := .none, str := str }))

/-- R214: valid in bit 31, fill in bits 18-16, length in bits 9-0, every other bit 0. The length fits its field, as in every
state of the invariant. -/
def Obligations.RdprReturnsDescriptor : Prop :=
  decodeWord (0xD#4 ++ 0#60 : BitVec 64) = .instr .rdpr ∧
  ∀ s : State, s.payload.buf.length ≤ 576 →
    ∃ v : Value, exec .rdpr s = answers s (record .ok v .none) ∧
      v.toNat = s.payload.valid.toNat * 2 ^ 31 + s.payload.fill.toNat * 2 ^ 16 + s.payload.buf.length

/-! ## The framer -/

/-- R121 and R28: a start marker in any phase resets every framer and staging register, leaves the rest of the block, and
reports nothing of the sentence it abandons. -/
def Obligations.StartMarkerRestarts : Prop :=
  ∀ (c : Byte) (s : State), c = 0x24#8 ∨ c = 0x21#8 →
    exec (.decode c) s = answers { s with sentence := resetSentence false } (record .ok 0#32 .none)

/-- R122: in idle every byte but a start marker is ignored. -/
def Obligations.IdleIgnoresOtherBytes : Prop :=
  ∀ (c : Byte) (s : State), c ≠ 0x24#8 → c ≠ 0x21#8 → s.sentence.fr.done = true →
    exec (.decode c) s = answers s (record .ok 0#32 .none)

/-- R126: an ordinary byte is XORed in the body only, and stored while the term buffer has room. A byte that finds it full is
dropped and marks the term oversized. -/
def Obligations.OrdinaryByteAccumulates : Prop :=
  ∀ (c : Byte) (s : State), bodyByte c → c ≠ 0x2C#8 → s.sentence.fr.done = false →
    ∃ f : Framer, exec (.decode c) s =
        answers { s with sentence := { fr := f, st := s.sentence.st } } (record .ok 0#32 .none) ∧
      f.acc = (if s.sentence.fr.cks then s.sentence.fr.acc else s.sentence.fr.acc ^^^ c) ∧
      (s.sentence.fr.tbuf.length < 64 → f.tbuf = s.sentence.fr.tbuf ++ [c] ∧ f.tovf = s.sentence.fr.tovf) ∧
      (64 ≤ s.sentence.fr.tbuf.length → f.tbuf = s.sentence.fr.tbuf ∧ f.tovf = true) ∧
      f.done = false ∧ f.cks = s.sentence.fr.cks ∧ f.why = s.sentence.fr.why ∧ f.tidx = s.sentence.fr.tidx

/-- R127: a comma in the body is XORed, completes the current term and advances the index up to 7. In the checksum section it
is a format failure and nothing else. -/
def Obligations.CommaCompletesTerm : Prop :=
  ∀ s : State, s.sentence.fr.done = false →
    (s.sentence.fr.cks = true → exec (.decode 0x2C#8) s =
      answers { s with sentence := s.sentence.fail .errFormat } (record .ok 0#32 .none)) ∧
    (s.sentence.fr.cks = false →
      ∃ x y : Sentence, x = { s.sentence with fr := { s.sentence.fr with acc := s.sentence.fr.acc ^^^ 0x2C#8 } } ∧
        y = completeTerm s.sentence.fr.tidx x ∧
        exec (.decode 0x2C#8) s =
          answers
            { s with
              sentence :=
                { fr := { y.fr with tidx := BitVec.ofNat 3 (min (s.sentence.fr.tidx.toNat + 1) 7), tbuf := [], tovf := false }
                  st := y.st } }
            (record .ok 0#32 .none))

/-- R129: the first star completes the current term, fails the sentence unless that term is term 6, and opens the checksum
section. A second star is a format failure and nothing else. -/
def Obligations.StarOpensChecksumSection : Prop :=
  ∀ s : State, s.sentence.fr.done = false →
    (s.sentence.fr.cks = true → exec (.decode 0x2A#8) s =
      answers { s with sentence := s.sentence.fail .errFormat } (record .ok 0#32 .none)) ∧
    (s.sentence.fr.cks = false →
      ∃ x y : Sentence, x = completeTerm s.sentence.fr.tidx s.sentence ∧
        y = (if s.sentence.fr.tidx = 6#3 then x else x.fail .errFormat) ∧
        exec (.decode 0x2A#8) s =
          answers { s with sentence := { fr := { y.fr with cks := true, tbuf := [], tovf := false }, st := y.st } }
            (record .ok 0#32 .none))

/-- R124 and R128 with R139: the first failure is kept, a failed sentence is not parsed, an eighth term is a format failure,
an oversized term 0 is IGNORED and an oversized term 1 to 6 a bad term. -/
def Obligations.FirstFailureIsKept : Prop :=
  ∀ (s : Sentence) (k : BitVec 3) (why : Cause),
    (s.fr.why ≠ .ok → s.fail why = s ∧ completeTerm k s = s) ∧
    (s.fr.why = .ok → s.fail why = withCause why s ∧
      (k = 7#3 → completeTerm k s = withCause .errFormat s) ∧
      (s.fr.tovf = true → k = 0#3 → completeTerm k s = withCause .ignored s) ∧
      (s.fr.tovf = true → k ≠ 0#3 → k ≠ 7#3 → completeTerm k s = withCause .errTerm s))

/-- R131 and R133 to R138: what each term's parse step writes, and when it fails the sentence, in a sentence not failed. An
oversized term 0 is judged here, an oversized term 1 to 6 by R128. -/
def Obligations.TermsParseIntoStaging : Prop :=
  (∀ s : Sentence, s.fr.why = .ok → completeTerm 0#3 s =
    if s.fr.tovf = false ∧ s.fr.tbuf = [0x41#8, 0x49#8, 0x56#8, 0x44#8, 0x4D#8] then s else withCause .ignored s) ∧
  ∀ s : Sentence, s.fr.why = .ok → s.fr.tovf = false →
    (∀ n, dec s.fr.tbuf = some n → 1 ≤ n → n ≤ 9 →
      completeTerm 1#3 s = { s with st := { s.st with total := BitVec.ofNat 4 n } }) ∧
    ((∀ n, dec s.fr.tbuf = some n → n = 0 ∨ 9 < n) → completeTerm 1#3 s = withCause .errTerm s) ∧
    (∀ n, dec s.fr.tbuf = some n → 1 ≤ n → n ≤ s.st.total.toNat →
      completeTerm 2#3 s = { s with st := { s.st with num := BitVec.ofNat 4 n } }) ∧
    ((∀ n, dec s.fr.tbuf = some n → n = 0 ∨ s.st.total.toNat < n) → completeTerm 2#3 s = withCause .errTerm s) ∧
    (s.fr.tbuf = [] → completeTerm 3#3 s =
      { fr := { s.fr with why := if 1 < s.st.total.toNat then .errTerm else .ok }
        st := { s.st with idp := false, id := 0#8 } }) ∧
    (∀ n, dec s.fr.tbuf = some n → n ≤ 255 →
      completeTerm 3#3 s = { s with st := { s.st with idp := true, id := BitVec.ofNat 8 n } }) ∧
    (s.fr.tbuf ≠ [] → (∀ n, dec s.fr.tbuf = some n → 255 < n) → completeTerm 3#3 s = withCause .errTerm s) ∧
    completeTerm 4#3 s = s ∧
    (completeTerm 5#3 s =
      if s.fr.tbuf = [] then withCause .errTerm s else { s with st := { s.st with pay := s.fr.tbuf } }) ∧
    (∀ c, s.fr.tbuf = [c] → 0x30 ≤ c.toNat → c.toNat ≤ 0x35 →
      completeTerm 6#3 s = { s with st := { s.st with fill := BitVec.ofNat 3 (c.toNat - 0x30) } }) ∧
    ((∀ c, s.fr.tbuf = [c] → c.toNat < 0x30 ∨ 0x35 < c.toNat) → completeTerm 6#3 s = withCause .errTerm s)

/-- R132: the value of a decimal term is the sum of its digits' place values, of any size, and any byte that is no digit leaves
it undefined, as does an empty term. -/
def Obligations.DecimalTermsHaveTheirPlaceValue : Prop :=
  ∀ t : List Byte,
    (t ≠ [] → (∀ c ∈ t, 0x30 ≤ c.toNat ∧ c.toNat ≤ 0x39) →
      dec t = some (∑ i ∈ Finset.range t.length, ((t.getD i 0#8).toNat - 0x30) * 10 ^ (t.length - 1 - i))) ∧
    (t = [] ∨ (∃ c ∈ t, c.toNat < 0x30 ∨ 0x39 < c.toNat) → dec t = none)

/-- R130, R140 and R141: how a sentence closes. Each cause that was recorded is the status of its own name, a field that is not two uppercase hex digits is
ERR_HEX, a wrong value ERR_CHECKSUM, and only a valid sentence hands its fragment to ACCEPT. -/
def Obligations.TerminatorClosesSentence : Prop :=
  (∀ (c : Byte) (n : Nat), hexDigit c = some n ↔
    (n ≤ 9 ∧ c.toNat = 0x30 + n ∨ 10 ≤ n ∧ n ≤ 15 ∧ c.toNat + 10 = 0x41 + n)) ∧
  ∀ (c : Byte) (s : State), c = 0x0D#8 ∨ c = 0x0A#8 → s.sentence.fr.done = false →
    (∀ why status,
      (why, status) ∈ [(Cause.ignored, Status.ignored), (.errTerm, .errTerm), (.errFormat, .errFormat), (.errHex, .errHex),
        (.errChecksum, .errChecksum)] →
      s.sentence.fr.why = why →
      exec (.decode c) s = answers { s with sentence := resetSentence true } (record status 0#32 .none)) ∧
    (s.sentence.fr.why = .ok → s.sentence.fr.cks = false → exec (.decode c) s =
      answers { s with sentence := resetSentence true }
        (record
          (if s.sentence.fr.tidx = 0#3 ∧
              ¬ (s.sentence.fr.tovf = false ∧ s.sentence.fr.tbuf = [0x41#8, 0x49#8, 0x56#8, 0x44#8, 0x4D#8])
            then .ignored else .errFormat) 0#32 .none)) ∧
    (s.sentence.fr.why = .ok → s.sentence.fr.cks = true →
      (s.sentence.fr.tovf = true ∨ ¬ ∃ n, hexField s.sentence.fr.tbuf n) → exec (.decode c) s =
      answers { s with sentence := resetSentence true } (record .errHex 0#32 .none)) ∧
    (∀ n, s.sentence.fr.why = .ok → s.sentence.fr.cks = true → s.sentence.fr.tovf = false →
      hexField s.sentence.fr.tbuf n →
      (n ≠ s.sentence.fr.acc.toNat → exec (.decode c) s =
        answers { s with sentence := resetSentence true } (record .errChecksum 0#32 .none)) ∧
      (n = s.sentence.fr.acc.toNat →
        ∃ a, a = accept
            { total := s.sentence.st.total, num := s.sentence.st.num, idp := s.sentence.st.idp, id := s.sentence.st.id
              pay := s.sentence.st.pay, fill := s.sentence.st.fill } s.fifo s.payload ∧
          exec (.decode c) s =
            answers { s with sentence := resetSentence true, fifo := a.fifo, payload := a.payload }
              (record .fragment 0#32 a.rstat)))

/-- R145: DECODE never touches the vessel-age table or the configuration, and it changes the FIFO and the payload register only
in a FRAGMENT close. A byte that is no terminator, or that arrives in idle, returns OK and nothing else (R125). -/
def Obligations.DecodeFrame : Prop :=
  ∀ (c : Byte) (s : State), ∃ t r, exec (.decode c) s = .next t ∧ t.results = s.results ++ [r] ∧
    t.vessels = s.vessels ∧ t.cfg = s.cfg ∧ t.pending = s.pending ∧
    (r.status ≠ .fragment → t.fifo = s.fifo ∧ t.payload = s.payload) ∧
    (c ≠ 0x0D#8 ∧ c ≠ 0x0A#8 ∨ s.sentence.fr.done = true → r = record .ok 0#32 .none)

/-- R145: a DECODE depends on nothing but the framer, the staging registers and the FIFO. Two states that agree on these give
the same result, the same framer and the same FIFO, and the payload register is written alike or not at all. -/
def Obligations.DecodeDependsOnFramerAndFifoOnly : Prop :=
  ∀ (c : Byte) (s t : State), s.sentence = t.sentence → s.fifo = t.fifo →
    ∃ s' t' r, exec (.decode c) s = .next s' ∧ exec (.decode c) t = .next t' ∧
      s'.results = s.results ++ [r] ∧ t'.results = t.results ++ [r] ∧ s'.sentence = t'.sentence ∧ s'.fifo = t'.fifo ∧
      (s'.payload = t'.payload ∨ s'.payload = s.payload ∧ t'.payload = t.payload)

/-- R142: what holds of the fragment of a FRAGMENT close, in every state of the invariant. -/
def Obligations.ClosedFragmentIsWellFormed : Prop :=
  ∀ (c : Byte) (s t : State) (r : Result), s.Inv → exec (.decode c) s = .next t → t.results = s.results ++ [r] →
    r.status = .fragment →
    1 ≤ s.sentence.st.num.toNat ∧ s.sentence.st.num.toNat ≤ s.sentence.st.total.toNat ∧
    s.sentence.st.total.toNat ≤ 9 ∧ (1 < s.sentence.st.total.toNat → s.sentence.st.idp = true) ∧
    1 ≤ s.sentence.st.pay.length ∧ s.sentence.st.pay.length ≤ 64 ∧
    (∀ b ∈ s.sentence.st.pay, bodyByte b ∧ b ≠ 0x2C#8) ∧ s.sentence.st.fill.toNat ≤ 5

/-- R143: after a start marker and a body without start markers, stars and terminators, in any state, the accumulator is the
XOR of every body byte, commas and dropped bytes included. -/
def Obligations.AccumulatorIsXorOfBody : Prop :=
  ∀ (s : State) (m : Byte) (body : List Byte), m = 0x24#8 ∨ m = 0x21#8 → (∀ c ∈ body, bodyByte c) →
    ∃ t, performAll ((m :: body).map Instr.decode) s = .next t ∧ t.sentence.fr.acc = xorBytes body ∧
      t.sentence.fr.done = false ∧ t.sentence.fr.cks = false

/-- R147: a sentence sent with its own checksum closes once, never with ERR_HEX or ERR_CHECKSUM, and it closes
FRAGMENT exactly when its body has seven terms that each pass their parse step. The byte-by-byte framer and the term list of
the whole body agree. -/
def Obligations.SentSentenceAcceptedExactlyWhenTermsPass : Prop :=
  ∀ (s : State) (m : Byte) (body : List Byte), m = 0x24#8 ∨ m = 0x21#8 → (∀ c ∈ body, bodyByte c) →
    ∃ t r, performAll ((m :: (body ++ [0x2A#8] ++ hexPair (xorBytes body) ++ [0x0D#8])).map Instr.decode) s = .next t ∧
      t.results = s.results ++ List.replicate (body.length + 4) (record .ok 0#32 .none) ++ [r] ∧
      t.sentence = resetSentence true ∧ r.status ≠ .errHex ∧ r.status ≠ .errChecksum ∧
      (r.status = .fragment ↔ termsPass (splitTerms body))

/-- R144: take a sentence that closes FRAGMENT and change one byte of it. Fed with a line feed after it, it never produces a
FRAGMENT, but for the two changes that R144 and 90_conflicts.md C7 except and this statement leaves out: the start marker to
the other start marker, and the terminator to the other terminator. -/
def Obligations.SingleByteChangeNeverAccepted : Prop :=
  ∀ (s u v : State) (m h1 h2 e : Byte) (body : List Byte) (p : Nat) (b : Byte) (r : Result),
    s.sentence = resetSentence true → m = 0x24#8 ∨ m = 0x21#8 → (∀ c ∈ body, bodyByte c) → e = 0x0D#8 ∨ e = 0x0A#8 →
    performAll ((m :: (body ++ [0x2A#8, h1, h2, e])).map Instr.decode) s = .next u → u.results.getLast? = some r →
    r.status = .fragment →
    p < body.length + 5 → (m :: (body ++ [0x2A#8, h1, h2, e]))[p]? ≠ some b →
    ¬ (p = 0 ∧ (b = 0x24#8 ∨ b = 0x21#8)) → ¬ (p = body.length + 4 ∧ (b = 0x0D#8 ∨ b = 0x0A#8)) →
    performAll (((m :: (body ++ [0x2A#8, h1, h2, e])).set p b ++ [0x0A#8]).map Instr.decode) s = .next v →
    ∀ x ∈ v.results.drop s.results.length, x.status ≠ .fragment

/-! ## The reassembly FIFO -/

/-- R172 with R179: a single-fragment message is complete at once, and the FIFO is neither read nor changed. -/
def Obligations.SingleFragmentBypassesFifo : Prop :=
  ∀ (f : Fragment) (fifo : List Partial) (pr : Payload), f.total = 1#4 →
    accept f fifo pr =
      { fifo := fifo, payload := { valid := true, fill := f.fill, buf := f.pay }, rstat := .single }

/-- R174 and R175: the next fragment of an entry is appended in its place, and the last one completes the message with the
fill of that last fragment and removes the entry. -/
def Obligations.InSequenceFragmentAppendsOrCompletes : Prop :=
  ∀ (f : Fragment) (front rest : List Partial) (e : Partial) (pr : Payload), f.total ≠ 1#4 →
    (∀ x ∈ front, x.id ≠ f.id) → e.id = f.id → f.num = e.next → f.total = e.total →
    (e.cnt + 1#4 = e.total → accept f (front ++ e :: rest) pr =
      { fifo := front ++ rest, payload := { valid := true, fill := f.fill, buf := e.buf ++ f.pay }, rstat := .complete }) ∧
    (e.cnt + 1#4 ≠ e.total → accept f (front ++ e :: rest) pr =
      { fifo := front ++
          { id := e.id, total := e.total, next := e.next + 1#4, cnt := e.cnt + 1#4, buf := e.buf ++ f.pay } :: rest
        payload := pr, rstat := .append })

/-- R176: a fragment out of sequence, or of another total, removes the entry of its id and is dropped itself. -/
def Obligations.OutOfSequenceFragmentDiscardsEntry : Prop :=
  ∀ (f : Fragment) (front rest : List Partial) (e : Partial) (pr : Payload), f.total ≠ 1#4 →
    (∀ x ∈ front, x.id ≠ f.id) → e.id = f.id → (f.num ≠ e.next ∨ f.total ≠ e.total) →
    accept f (front ++ e :: rest) pr = { fifo := front ++ rest, payload := pr, rstat := .discard }

/-- R177 and R178: a fragment of a new id allocates an entry at the tail, whatever its number, after a full FIFO has lost its
oldest entry. -/
def Obligations.NewMessageAllocatesAtTail : Prop :=
  ∀ (f : Fragment) (fifo : List Partial) (pr : Payload), f.total ≠ 1#4 → (∀ x ∈ fifo, x.id ≠ f.id) →
    (fifo.length ≠ 10 → accept f fifo pr =
      { fifo := fifo ++ [{ id := f.id, total := f.total, next := f.num + 1#4, cnt := 1#4, buf := f.pay }]
        payload := pr, rstat := .new }) ∧
    (fifo.length = 10 → accept f fifo pr =
      { fifo := fifo.tail ++ [{ id := f.id, total := f.total, next := f.num + 1#4, cnt := 1#4, buf := f.pay }]
        payload := pr, rstat := .newEvict })

/-- R181: the fragments `1 .. n` of one id, given in order and back to back to a FIFO that holds no entry of that id, give R_NEW (or
R_NEW_EVICT), R_APPEND for each but the last, and R_COMPLETE. The payload register then holds their concatenation with the
last fill, and the FIFO is as before but for an evicted head. -/
def Obligations.InOrderFragmentsComplete : Prop :=
  ∀ (id : Byte) (pays : List (List Byte)) (fills : Nat → BitVec 3) (fifo : List Partial) (pr : Payload),
    2 ≤ pays.length → pays.length ≤ 9 → fifo.length ≤ 10 → (∀ x ∈ fifo, x.id ≠ id) →
    acceptAll
        (pays.zipIdx.map fun p =>
          { total := BitVec.ofNat 4 pays.length, num := BitVec.ofNat 4 (p.2 + 1), idp := true, id := id, pay := p.1
            fill := fills p.2 })
        fifo pr =
      (if fifo.length = 10 then fifo.tail else fifo,
        { valid := true, fill := fills (pays.length - 1), buf := pays.flatten },
        (if fifo.length = 10 then Rstat.newEvict else Rstat.new) ::
          (List.replicate (pays.length - 2) Rstat.append ++ [Rstat.complete]))

/-- R180: an entry allocated by a fragment with a number above 1, seen by `cnt + 1 < next`, never completes: a fragment of its
id is not R_COMPLETE, and the entry, where it stays, keeps that property. -/
def Obligations.LateStartedMessageNeverCompletes : Prop :=
  ∀ (f : Fragment) (fifo : List Partial) (pr : Payload) (e : Partial), FifoOk fifo → e ∈ fifo →
    e.cnt.toNat + 1 < e.next.toNat → f.id = e.id → f.total ≠ 1#4 → f.num.toNat ≤ f.total.toNat →
    (accept f fifo pr).rstat ≠ .complete ∧
    ∀ x ∈ (accept f fifo pr).fifo, x.id = e.id → x.cnt.toNat + 1 < x.next.toNat

/-- R182 with its one exception, R178, and the order of R34 (e): a fragment changes no entry of another id and keeps their
order, but an allocation into a full FIFO evicts the head, whatever its id. -/
def Obligations.OtherMessagesAreUndisturbed : Prop :=
  ∀ (f : Fragment) (fifo : List Partial) (pr : Payload), FifoOk fifo →
    (accept f fifo pr).fifo.filter (fun x => x.id ≠ f.id) =
      (if (accept f fifo pr).rstat = .newEvict then fifo.tail else fifo).filter (fun x => x.id ≠ f.id)

/-! ## The parameters -/

/-- R7: the parameters are an argument of the model. The state, the commands, the step and power-on are those of any value of
it, and each bound of the block is the parameter's, whatever its value. `exec`, `step` and `State.reset` are the block at the
values of this hardware.
The registers keep the widths of R25, R27 and R33, or have none where they are lengths of lists, whatever the parameters are. So
what the clauses say of `st_total` at a MAX_TOTAL above 15 (its value modulo 16, where R133 and R12 (b) keep the value whole), of
`st_id` at an ID_MAX above 255 (modulo 256), of the term buffer at a TERM_CAP above 127 and of the FIFO at a FIFO_N of 0 is the
model's choice and no rule of the spec (notes/assumptions/5.md, DESIGN CHOICE). R7 excludes an ID_MAX above 255 and admits the
other three. -/
def Obligations.BoundsFollowTheParameters : Prop :=
  hardware =
    { termCap := 64, maxTotal := 9, idMax := 255, fifoN := 10, wMax := 32, strMax := 20, vslots := 32, tsW := 32, toW := 16 } ∧
  hardware.Legal ∧
  (∀ (i : Instr) (s : State), exec i s = execFor i s) ∧ (∀ s : State, step s = stepFor s) ∧
  State.reset = State.powerOn hardware ∧
  ∀ p : Params, p.prCap = p.maxTotal * p.termCap ∧
    (∀ k, (State.powerOn p).vessels[k]? = if k < p.vslots then some { live := false, last := 0#p.tsW } else none) ∧
    (∀ (s : State p) (w : CmdWord) (rest : List CmdWord) (i : Instr), s.pending = w :: rest → decodeWord w = .instr i →
      stepFor s = execFor i { s with pending := rest }) ∧
    (∀ (f : Framer) (c : Byte),
      (f.tbuf.length < p.termCap → f.pushByte c p = { f with tbuf := f.tbuf ++ [c] }) ∧
      (p.termCap ≤ f.tbuf.length → f.pushByte c p = { f with tovf := true })) ∧
    (∀ (s : Sentence) (n : Nat), s.fr.why = .ok → dec s.fr.tbuf = some n →
      (1 ≤ n → n ≤ p.maxTotal → term1 s p = { s with st := { s.st with total := BitVec.ofNat 4 n } }) ∧
      (p.maxTotal < n → term1 s p = withCause .errTerm s) ∧
      (n ≤ p.idMax → term3 s p = { s with st := { s.st with idp := true, id := BitVec.ofNat 8 n } }) ∧
      (p.idMax < n → term3 s p = withCause .errTerm s)) ∧
    (∀ (f : Fragment) (fifo : List Partial) (pr : Payload), f.total ≠ 1#4 → (∀ x ∈ fifo, x.id ≠ f.id) →
      ((accept f fifo pr p).rstat = .newEvict ↔ fifo.length = p.fifoN)) ∧
    (∀ (lo hi : BitVec 12) (s : State p), readable s.payload lo hi →
      (execFor (.getu lo hi) s = answers s (recordFor p .errRange 0#32) ↔ p.wMax < hi.toNat - lo.toNat) ∧
      (execFor (.gets lo hi) s = answers s (recordFor p .errRange 0#32) ↔ p.wMax < hi.toNat - lo.toNat) ∧
      (∀ n, hi.toNat - lo.toNat = 6 * n →
        (execFor (.getc lo hi) s = answers s (recordFor p .errRange 0#32) ↔ p.strMax < n))) ∧
    (∀ (slot : BitVec 8) (time : BitVec 32) (timeout : BitVec 16) (listmax : BitVec 8) (s : State p),
      (execFor (.setcfg timeout listmax) s = answers s (recordFor p .errRange 0#32) ↔ p.vslots < listmax.toNat) ∧
      (execFor (.touch slot time) s = answers s (recordFor p .errSlot 0#32) ↔
        p.vslots ≤ slot.toNat ∨ s.cfg.listmax.toNat ≤ slot.toNat) ∧
      (execFor (.age slot time) s = answers s (recordFor p .errSlot 0#32) ↔ p.vslots ≤ slot.toNat) ∧
      (execFor (.rdslot slot) s = answers s (recordFor p .errSlot 0#32) ↔ p.vslots ≤ slot.toNat) ∧
      (execFor (.rdfifo slot) s = answers s (recordFor p .errSlot 0#32) ↔ p.fifoN ≤ slot.toNat))

/-- TS_W and TO_W of R7 as widths of the state, for any legal value of the parameters. SETCFG keeps the timeout modulo 2^TO_W,
TOUCH the time modulo 2^TS_W, AGE and TICK take the age modulo 2^TS_W over all VSLOTS slots, and RDSLOT returns the stamp modulo
2^32. At the values of this hardware these are R240 to R246. At other widths they are the model's choice, since those rules are
written for 32 and 16 bits (notes/assumptions/5.md). -/
def Obligations.TimesFollowTheirWidths : Prop :=
  ∀ (p : Params) (s : State p), p.Legal →
    (∀ (timeout : BitVec 16) (listmax : BitVec 8), listmax.toNat ≤ p.vslots →
      ∃ x : Seconds p, x.toNat = timeout.toNat % 2 ^ p.toW ∧
        execFor (.setcfg timeout listmax) s =
          answers { s with cfg := { timeout := x, listmax := listmax } } (recordFor p .ok 0#32)) ∧
    (∀ (slot : BitVec 8) (time : BitVec 32), slot.toNat < p.vslots → slot.toNat < s.cfg.listmax.toNat →
      ∃ (v : Vector (Slot p) p.vslots) (x : Millis p), x.toNat = time.toNat % 2 ^ p.tsW ∧
        execFor (.touch slot time) s = answers { s with vessels := v } (recordFor p .ok 0#32) ∧
        v[slot.toNat]? = some { live := true, last := x } ∧ ∀ k, k ≠ slot.toNat → v[k]? = s.vessels[k]?) ∧
    (∀ (slot : BitVec 8) (now : BitVec 32) (x : Slot p), s.vessels[slot.toNat]? = some x →
      ∃ v : Value, execFor (.age slot now) s = answers s (recordFor p .ok v) ∧
        (v.getLsbD 0 = true ↔ tooOldFor p s.cfg.timeout now x.last) ∧ v.getLsbD 1 = x.live ∧
        ∀ k, 2 ≤ k → v.getLsbD k = false) ∧
    (∀ now : BitVec 32, ∃ (v : Vector (Slot p) p.vslots) (mask : Value),
      execFor (.tick now) s = answers { s with vessels := v } (recordFor p .ok mask) ∧
      ∀ k x, s.vessels[k]? = some x →
        (x.live = true ∧ tooOldFor p s.cfg.timeout now x.last →
          v[k]? = some { live := false, last := 0#p.tsW } ∧ mask.getLsbD k = true) ∧
        (¬ (x.live = true ∧ tooOldFor p s.cfg.timeout now x.last) → v[k]? = some x ∧ mask.getLsbD k = false)) ∧
    (∀ (slot : BitVec 8) (x : Slot p), s.vessels[slot.toNat]? = some x →
      ∃ v : Value, execFor (.rdslot slot) s = answers s (recordFor p .ok v) ∧ v.toNat = x.last.toNat % 2 ^ 32)
end

