-- ==== Sys2Proof/Laws/Config.lean ====
section
/-! SUPPORT. The parameters as numbers, so that arithmetic tactics see them, and the constraints of spec/00_scope.md R7. -/

namespace Sys2Proof.Config

@[simp] theorem termCap_eq : termCap = 64 := rfl
@[simp] theorem maxTotal_eq : maxTotal = 9 := rfl
@[simp] theorem idMax_eq : idMax = 255 := rfl
@[simp] theorem fifoN_eq : fifoN = 10 := rfl
@[simp] theorem prCap_eq : prCap = 576 := rfl
@[simp] theorem wMax_eq : wMax = 32 := rfl
@[simp] theorem strMax_eq : strMax = 20 := rfl
@[simp] theorem vslots_eq : vslots = 32 := rfl
@[simp] theorem tsW_eq : tsW = 32 := rfl
@[simp] theorem toW_eq : toW = 16 := rfl
@[simp] theorem fillMax_eq : fillMax = 5 := rfl

end Sys2Proof.Config

namespace Sys2Proof

@[simp] theorem hardware_termCap : hardware.termCap = 64 := rfl
@[simp] theorem hardware_maxTotal : hardware.maxTotal = 9 := rfl
@[simp] theorem hardware_idMax : hardware.idMax = 255 := rfl
@[simp] theorem hardware_fifoN : hardware.fifoN = 10 := rfl
@[simp] theorem hardware_prCap : hardware.prCap = 576 := rfl
@[simp] theorem hardware_wMax : hardware.wMax = 32 := rfl
@[simp] theorem hardware_strMax : hardware.strMax = 20 := rfl
@[simp] theorem hardware_vslots : hardware.vslots = 32 := rfl
@[simp] theorem hardware_tsW : hardware.tsW = 32 := rfl
@[simp] theorem hardware_toW : hardware.toW = 16 := rfl

/-- The constraints R7 puts on the parameters. -/
theorem hardware_legal : hardware.Legal := by constructor <;> decide

end Sys2Proof
end

