-- ==== Sys2Proof/Laws/State.lean ====
section
/-! SUPPORT. One lemma per field per update of the state, each true by rfl, so that no proof unfolds a record update. -/

namespace Sys2Proof.Machine

/-! ## Returning a result -/

@[simp] theorem State.respond_sentence {p : Params} (s : State p) (r : Result) : (s.respond r).sentence = s.sentence := rfl
@[simp] theorem State.respond_fifo {p : Params} (s : State p) (r : Result) : (s.respond r).fifo = s.fifo := rfl
@[simp] theorem State.respond_payload {p : Params} (s : State p) (r : Result) : (s.respond r).payload = s.payload := rfl
@[simp] theorem State.respond_vessels {p : Params} (s : State p) (r : Result) : (s.respond r).vessels = s.vessels := rfl
@[simp] theorem State.respond_cfg {p : Params} (s : State p) (r : Result) : (s.respond r).cfg = s.cfg := rfl
@[simp] theorem State.respond_pending {p : Params} (s : State p) (r : Result) : (s.respond r).pending = s.pending := rfl
@[simp] theorem State.respond_results {p : Params} (s : State p) (r : Result) : (s.respond r).results = s.results ++ [r] := rfl

/-! ## Writing a slot -/

@[simp] theorem State.setSlot_sentence {p : Params} (s : State p) (i : Nat) (x : Slot p) : (s.setSlot i x).sentence = s.sentence := rfl
@[simp] theorem State.setSlot_fifo {p : Params} (s : State p) (i : Nat) (x : Slot p) : (s.setSlot i x).fifo = s.fifo := rfl
@[simp] theorem State.setSlot_payload {p : Params} (s : State p) (i : Nat) (x : Slot p) : (s.setSlot i x).payload = s.payload := rfl
@[simp] theorem State.setSlot_vessels {p : Params} (s : State p) (i : Nat) (x : Slot p) : (s.setSlot i x).vessels = s.vessels.setIfInBounds i x := rfl
@[simp] theorem State.setSlot_cfg {p : Params} (s : State p) (i : Nat) (x : Slot p) : (s.setSlot i x).cfg = s.cfg := rfl
@[simp] theorem State.setSlot_pending {p : Params} (s : State p) (i : Nat) (x : Slot p) : (s.setSlot i x).pending = s.pending := rfl
@[simp] theorem State.setSlot_results {p : Params} (s : State p) (i : Nat) (x : Slot p) : (s.setSlot i x).results = s.results := rfl

/-! ## Power-on and RESET (R320) -/

theorem State.reset_eq : State.reset = State.powerOn hardware := rfl
@[simp] theorem State.powerOn_sentence (p : Params) : (State.powerOn p).sentence = sentenceReset true := rfl
@[simp] theorem State.powerOn_fifo (p : Params) : (State.powerOn p).fifo = [] := rfl
@[simp] theorem State.powerOn_payload (p : Params) : (State.powerOn p).payload = Payload.none := rfl
@[simp] theorem State.powerOn_vessels (p : Params) : (State.powerOn p).vessels = Vector.replicate p.vslots Slot.free := rfl
@[simp] theorem State.powerOn_cfg (p : Params) : (State.powerOn p).cfg = Cfg.zero := rfl
@[simp] theorem State.powerOn_pending (p : Params) : (State.powerOn p).pending = [] := rfl
@[simp] theorem State.powerOn_results (p : Params) : (State.powerOn p).results = [] := rfl

@[simp] theorem State.blockReset_sentence {p : Params} (s : State p) : s.blockReset.sentence = (State.powerOn p).sentence := rfl
@[simp] theorem State.blockReset_fifo {p : Params} (s : State p) : s.blockReset.fifo = (State.powerOn p).fifo := rfl
@[simp] theorem State.blockReset_payload {p : Params} (s : State p) : s.blockReset.payload = (State.powerOn p).payload := rfl
@[simp] theorem State.blockReset_vessels {p : Params} (s : State p) : s.blockReset.vessels = (State.powerOn p).vessels := rfl
@[simp] theorem State.blockReset_cfg {p : Params} (s : State p) : s.blockReset.cfg = (State.powerOn p).cfg := rfl
@[simp] theorem State.blockReset_pending {p : Params} (s : State p) : s.blockReset.pending = s.pending := rfl
@[simp] theorem State.blockReset_results {p : Params} (s : State p) : s.blockReset.results = s.results := rfl

/-! ## The command port -/

@[simp] theorem State.withFetchWord_sentence (s : State) (nbits w : Nat) : (s.withFetchWord nbits w).sentence = s.sentence := rfl
@[simp] theorem State.withFetchWord_fifo (s : State) (nbits w : Nat) : (s.withFetchWord nbits w).fifo = s.fifo := rfl
@[simp] theorem State.withFetchWord_payload (s : State) (nbits w : Nat) : (s.withFetchWord nbits w).payload = s.payload := rfl
@[simp] theorem State.withFetchWord_vessels (s : State) (nbits w : Nat) : (s.withFetchWord nbits w).vessels = s.vessels := rfl
@[simp] theorem State.withFetchWord_cfg (s : State) (nbits w : Nat) : (s.withFetchWord nbits w).cfg = s.cfg := rfl
@[simp] theorem State.withFetchWord_pending (s : State) (nbits w : Nat) : (s.withFetchWord nbits w).pending = tableWord nbits w :: s.pending := rfl
@[simp] theorem State.withFetchWord_results (s : State) (nbits w : Nat) : (s.withFetchWord nbits w).results = s.results := rfl

/-! ## An empty slot and configuration (R320) -/

@[simp] theorem Slot.free_live {p : Params} : (Slot.free : Slot p).live = false := rfl
@[simp] theorem Slot.free_last {p : Params} : (Slot.free : Slot p).last = 0#p.tsW := rfl
@[simp] theorem Cfg.zero_timeout {p : Params} : (Cfg.zero : Cfg p).timeout = 0#p.toW := rfl
@[simp] theorem Cfg.zero_listmax {p : Params} : (Cfg.zero : Cfg p).listmax = 0#8 := rfl

/-! ## The sentence reset (R28) -/

@[simp] theorem sentenceReset_done (d : Bool) : (sentenceReset d).fr.done = d := rfl
@[simp] theorem sentenceReset_cks (d : Bool) : (sentenceReset d).fr.cks = false := rfl
@[simp] theorem sentenceReset_why (d : Bool) : (sentenceReset d).fr.why = .ok := rfl
@[simp] theorem sentenceReset_tidx (d : Bool) : (sentenceReset d).fr.tidx = 0#3 := rfl
@[simp] theorem sentenceReset_tbuf (d : Bool) : (sentenceReset d).fr.tbuf = [] := rfl
@[simp] theorem sentenceReset_tovf (d : Bool) : (sentenceReset d).fr.tovf = false := rfl
@[simp] theorem sentenceReset_acc (d : Bool) : (sentenceReset d).fr.acc = 0x00#8 := rfl
@[simp] theorem sentenceReset_total (d : Bool) : (sentenceReset d).st.total = 0#4 := rfl
@[simp] theorem sentenceReset_num (d : Bool) : (sentenceReset d).st.num = 0#4 := rfl
@[simp] theorem sentenceReset_idp (d : Bool) : (sentenceReset d).st.idp = false := rfl
@[simp] theorem sentenceReset_id (d : Bool) : (sentenceReset d).st.id = 0#8 := rfl
@[simp] theorem sentenceReset_pay (d : Bool) : (sentenceReset d).st.pay = [] := rfl
@[simp] theorem sentenceReset_fill (d : Bool) : (sentenceReset d).st.fill = 0#3 := rfl

/-! ## Starting a term -/

@[simp] theorem Framer.clearTerm_done (f : Framer) : f.clearTerm.done = f.done := rfl
@[simp] theorem Framer.clearTerm_cks (f : Framer) : f.clearTerm.cks = f.cks := rfl
@[simp] theorem Framer.clearTerm_why (f : Framer) : f.clearTerm.why = f.why := rfl
@[simp] theorem Framer.clearTerm_tidx (f : Framer) : f.clearTerm.tidx = f.tidx := rfl
@[simp] theorem Framer.clearTerm_tbuf (f : Framer) : f.clearTerm.tbuf = [] := rfl
@[simp] theorem Framer.clearTerm_tovf (f : Framer) : f.clearTerm.tovf = false := rfl
@[simp] theorem Framer.clearTerm_acc (f : Framer) : f.clearTerm.acc = f.acc := rfl

/-! ## Loading the payload register (R179) -/

@[simp] theorem loadPr_valid (buf : List Byte) (fill : BitVec 3) : (loadPr buf fill).valid = true := rfl
@[simp] theorem loadPr_fill (buf : List Byte) (fill : BitVec 3) : (loadPr buf fill).fill = fill := rfl
@[simp] theorem loadPr_buf (buf : List Byte) (fill : BitVec 3) : (loadPr buf fill).buf = buf := rfl

/-! ## FIFO entries (R174, R177) -/

@[simp] theorem Partial.appendFragment_id (e : Partial) (f : Fragment) : (e.appendFragment f).id = e.id := rfl
@[simp] theorem Partial.appendFragment_total (e : Partial) (f : Fragment) : (e.appendFragment f).total = e.total := rfl
@[simp] theorem Partial.appendFragment_next (e : Partial) (f : Fragment) : (e.appendFragment f).next = e.next + 1#4 := rfl
@[simp] theorem Partial.appendFragment_cnt (e : Partial) (f : Fragment) : (e.appendFragment f).cnt = e.cnt + 1#4 := rfl
@[simp] theorem Partial.appendFragment_buf (e : Partial) (f : Fragment) : (e.appendFragment f).buf = e.buf ++ f.pay := rfl
@[simp] theorem Fragment.allocate_id (f : Fragment) : f.allocate.id = f.id := rfl
@[simp] theorem Fragment.allocate_total (f : Fragment) : f.allocate.total = f.total := rfl
@[simp] theorem Fragment.allocate_next (f : Fragment) : f.allocate.next = f.num + 1#4 := rfl
@[simp] theorem Fragment.allocate_cnt (f : Fragment) : f.allocate.cnt = 1#4 := rfl
@[simp] theorem Fragment.allocate_buf (f : Fragment) : f.allocate.buf = f.pay := rfl

/-! ## The fragment record (R31) -/

@[simp] theorem Staging.fragment_total (st : Staging) : st.fragment.total = st.total := rfl
@[simp] theorem Staging.fragment_num (st : Staging) : st.fragment.num = st.num := rfl
@[simp] theorem Staging.fragment_idp (st : Staging) : st.fragment.idp = st.idp := rfl
@[simp] theorem Staging.fragment_id (st : Staging) : st.fragment.id = st.id := rfl
@[simp] theorem Staging.fragment_pay (st : Staging) : st.fragment.pay = st.pay := rfl
@[simp] theorem Staging.fragment_fill (st : Staging) : st.fragment.fill = st.fill := rfl

end Sys2Proof.Machine
end

