-- ==== Sys2Proof/Laws/Ops.lean ====
section
/-! SUPPORT. One lemma per shared operation that says all it does: returning a result, taking a word, the failure cause, the
term buffer, the slots, the comparator and the eviction mask. -/

namespace Sys2Proof.Machine

/-! ## Results and the port -/

theorem finish_eq {p : Params} (s : State p) (r : Result) : finish s r = .next (s.respond r) := rfl

theorem failWith_eq {p : Params} (s : State p) (st : Status) :
    failWith s st = .next (s.respond (Result.error st p)) := rfl

theorem illegalWord_eq {p : Params} (s : State p) : illegalWord s = .next (s.respond (Result.error .errOpcode p)) := rfl

theorem takeWord_of_pending_nil {p : Params} {s : State p} (h : s.pending = []) : s.takeWord = none := by
  simp [State.takeWord, h]

theorem takeWord_of_pending_cons {p : Params} {s : State p} {w : CmdWord} {rest : List CmdWord}
    (h : s.pending = w :: rest) : s.takeWord = some (w, { s with pending := rest }) := by
  simp [State.takeWord, h]

/-- All a transaction can do: wait, run the command its first word decodes to, or return ERR_OPCODE. -/
theorem transact_cases {p : Params} (run : Instr → State p → Host.Outcome (State p) Fault Refusal) (s : State p) :
    (s.pending = [] ∧ transact run s = .next s) ∨
    ∃ w rest, s.pending = w :: rest ∧
      ((∃ i, decodeWord w = .instr i ∧ transact run s = run i { s with pending := rest }) ∨
        ∃ why, decodeWord w = .illegal why ∧
          transact run s = .next (State.respond { s with pending := rest } (Result.error .errOpcode p))) := by
  cases hp : s.pending with
  | nil => left; exact ⟨rfl, by simp [transact, takeWord_of_pending_nil hp, idleWait]⟩
  | cons w rest =>
    right
    refine ⟨w, rest, rfl, ?_⟩
    cases hd : decodeWord w with
    | instr i => left; exact ⟨i, rfl, by simp [transact, takeWord_of_pending_cons hp, hd]⟩
    | illegal why => right; exact ⟨why, rfl, by simp [transact, takeWord_of_pending_cons hp, hd, illegalWord_eq]⟩

/-- All a step can do: wait, run the command its first word decodes to, or return ERR_OPCODE. -/
theorem step_cases (s : State) :
    (s.pending = [] ∧ step s = .next s) ∨
    ∃ w rest, s.pending = w :: rest ∧
      ((∃ i, decodeWord w = .instr i ∧ step s = exec i { s with pending := rest }) ∨
        ∃ why, decodeWord w = .illegal why ∧
          step s = .next (State.respond { s with pending := rest } (Result.error .errOpcode))) :=
  transact_cases exec s

/-! ## The failure cause (R124) -/

theorem fail_of_ok {s : Sentence} (w : Cause) (h : s.fr.why = .ok) :
    s.fail w = { s with fr := { s.fr with why := w } } := by simp [Sentence.fail, h]

theorem fail_of_failed {s : Sentence} (w : Cause) (h : s.fr.why ≠ .ok) : s.fail w = s := by simp [Sentence.fail, h]

@[simp] theorem fail_st (s : Sentence) (w : Cause) : (s.fail w).st = s.st := by unfold Sentence.fail; split <;> rfl
@[simp] theorem fail_done (s : Sentence) (w : Cause) : (s.fail w).fr.done = s.fr.done := by
  unfold Sentence.fail; split <;> rfl
@[simp] theorem fail_cks (s : Sentence) (w : Cause) : (s.fail w).fr.cks = s.fr.cks := by
  unfold Sentence.fail; split <;> rfl
@[simp] theorem fail_tidx (s : Sentence) (w : Cause) : (s.fail w).fr.tidx = s.fr.tidx := by
  unfold Sentence.fail; split <;> rfl
@[simp] theorem fail_tbuf (s : Sentence) (w : Cause) : (s.fail w).fr.tbuf = s.fr.tbuf := by
  unfold Sentence.fail; split <;> rfl
@[simp] theorem fail_tovf (s : Sentence) (w : Cause) : (s.fail w).fr.tovf = s.fr.tovf := by
  unfold Sentence.fail; split <;> rfl
@[simp] theorem fail_acc (s : Sentence) (w : Cause) : (s.fail w).fr.acc = s.fr.acc := by
  unfold Sentence.fail; split <;> rfl

/-- Recording a failure never leaves a valid sentence. -/
theorem fail_why_ne_ok (s : Sentence) {w : Cause} (h : w ≠ .ok) : (s.fail w).fr.why ≠ .ok := by
  unfold Sentence.fail; split <;> simp_all

/-! ## The term buffer (R126) -/

@[simp] theorem pushByte_done (f : Framer) (c : Byte) (p : Params) : (f.pushByte c p).done = f.done := by
  unfold Framer.pushByte; split <;> rfl
@[simp] theorem pushByte_cks (f : Framer) (c : Byte) (p : Params) : (f.pushByte c p).cks = f.cks := by
  unfold Framer.pushByte; split <;> rfl
@[simp] theorem pushByte_why (f : Framer) (c : Byte) (p : Params) : (f.pushByte c p).why = f.why := by
  unfold Framer.pushByte; split <;> rfl
@[simp] theorem pushByte_tidx (f : Framer) (c : Byte) (p : Params) : (f.pushByte c p).tidx = f.tidx := by
  unfold Framer.pushByte; split <;> rfl
@[simp] theorem pushByte_acc (f : Framer) (c : Byte) (p : Params) : (f.pushByte c p).acc = f.acc := by
  unfold Framer.pushByte; split <;> rfl

theorem pushByte_of_room {f : Framer} (c : Byte) {p : Params} (h : f.tbuf.length < p.termCap) :
    f.pushByte c p = { f with tbuf := f.tbuf ++ [c] } := by simp [Framer.pushByte, h]

theorem pushByte_of_full {f : Framer} (c : Byte) {p : Params} (h : p.termCap ≤ f.tbuf.length) :
    f.pushByte c p = { f with tovf := true } := by simp [Framer.pushByte, Nat.not_lt.mpr h]

/-! ## The vessel-age table -/

theorem slot_of_get {p : Params} {s : State p} {i : Nat} {x : Slot p} (h : s.vessels[i]? = some x) : s.slot i = x := by
  simp [State.slot, h]

theorem slot_setSlot_same {p : Params} (s : State p) {i : Nat} (x : Slot p) (h : i < p.vslots) :
    (s.setSlot i x).slot i = x := by
  simp [State.slot, State.setSlot, h]

theorem slot_setSlot_ne {p : Params} (s : State p) {i k : Nat} (x : Slot p) (h : k ≠ i) :
    (s.setSlot i x).slot k = s.slot k := by
  simp [State.slot, State.setSlot, Vector.getElem?_setIfInBounds_ne (Ne.symm h)]

/-! ### Operands and stamps at their widths (R7) -/

theorem stamp_toNat (t : BitVec 32) (p : Params) : (stamp t p).toNat = t.toNat % 2 ^ p.tsW := by simp [stamp]

theorem seconds_toNat (timeout : BitVec 16) (p : Params) : (seconds timeout p).toNat = timeout.toNat % 2 ^ p.toW := by
  simp [seconds]

theorem lastValue_toNat {p : Params} (x : Slot p) : x.lastValue.toNat = x.last.toNat % 2 ^ 32 := by
  simp [Slot.lastValue]

/-- At TS_W = 32 the stamp is the time operand. -/
@[simp] theorem stamp_hardware (t : BitVec 32) : stamp t = t := BitVec.setWidth_eq t

/-- At TO_W = 16 the timeout is the operand. -/
@[simp] theorem seconds_hardware (timeout : BitVec 16) : seconds timeout = timeout := BitVec.setWidth_eq timeout

/-- At TS_W = 32 the value is the stamp. -/
@[simp] theorem lastValue_hardware (x : Slot) : x.lastValue = x.last := BitVec.setWidth_eq x.last

/-- A time of this hardware is below 2^32 (TS_W, R7). -/
theorem millis_lt (t : Millis) : t.toNat < 4294967296 := t.isLt

/-- A timeout of this hardware is below 2^16 (TO_W, R7). -/
theorem seconds_lt (t : Seconds) : t.toNat < 65536 := t.isLt

/-- The age in numbers at this hardware: the difference modulo 2^32 (R12 (g)). -/
theorem millis_sub_toNat (now last : Millis) :
    (now - last).toNat = (4294967296 - last.toNat + now.toNat) % 4294967296 := BitVec.toNat_sub now last

theorem ageExceeds_iff {tsW toW : Nat} (timeout : BitVec toW) (now last : BitVec tsW) :
    ageExceeds timeout now last = true ↔ timeout.toNat * 1000 < (now - last).toNat := by
  simp [ageExceeds]

/-- The age of a time operand in exact arithmetic, modulo 2^TS_W (R241, R7). -/
theorem stamp_sub_toNat {p : Params} (now : BitVec 32) (last : Millis p) :
    ((stamp now p - last).toNat : Int) = ((now.toNat : Int) - (last.toNat : Int)) % 2 ^ p.tsW := by
  rw [BitVec.toNat_sub, stamp_toNat]
  push_cast [Nat.cast_sub last.isLt.le]
  rw [Int.add_emod, Int.emod_emod, ← Int.add_emod,
    show (2 : Int) ^ p.tsW - last.toNat + now.toNat = now.toNat - last.toNat + 2 ^ p.tsW by ring, Int.add_emod_right]

theorem expired_iff {p : Params} (timeout : Seconds p) (now : Millis p) (x : Slot p) :
    expired timeout now x = true ↔ x.live = true ∧ ageExceeds timeout now x.last = true := by
  simp [expired]

/-- TICK frees an expired slot and keeps any other (R245). -/
theorem sweepSlot_cases {p : Params} (timeout : Seconds p) (now : Millis p) (x : Slot p) :
    (expired timeout now x = true ∧ sweepSlot timeout now x = Slot.free) ∨
    (expired timeout now x = false ∧ sweepSlot timeout now x = x) := by
  unfold sweepSlot; cases h : expired timeout now x <;> simp

@[simp] theorem mapSlots_toList {p : Params} {n : Nat} (f : Slot p → Slot p) (v : Vector (Slot p) n) :
    (mapSlots f v).toList = v.toList.map f := by
  simp [mapSlots, Vector.toList]

@[simp] theorem mapSlots_getElem? {p : Params} {n : Nat} (f : Slot p → Slot p) (v : Vector (Slot p) n) (k : Nat) :
    (mapSlots f v)[k]? = v[k]?.map f := by
  rw [← Vector.getElem?_toList, mapSlots_toList, List.getElem?_map, Vector.getElem?_toList]

/-! ## The eviction mask -/

theorem maskNat_testBit (l : List Bool) (k : Nat) : (maskNat l).testBit k = l.getD k false := by
  induction l generalizing k with
  | nil => simp [maskNat]
  | cons b l ih =>
    cases k with
    | zero => cases b <;> simp [maskNat, Nat.testBit_zero]
    | succ k =>
      have hdiv : (b.toNat + 2 * maskNat l) / 2 = maskNat l := by
        have hb : b.toNat < 2 := Bool.toNat_lt b
        omega
      simp [maskNat, Nat.testBit_succ, hdiv, ih]

theorem maskNat_lt (l : List Bool) : maskNat l < 2 ^ l.length := by
  induction l with
  | nil => simp [maskNat]
  | cons b l ih =>
    have hb : b.toNat ≤ 1 := by cases b <;> simp
    simp only [maskNat, List.length_cons, Nat.pow_succ]
    omega

end Sys2Proof.Machine
end

