-- ==== Sys2Proof/Laws/AnyParams.lean ====
section
/-! SUPPORT. The host's fixed names are the block at the values of this hardware (spec/00_scope.md R7), and all a step can do at
any parameters. -/

namespace Sys2Proof.Machine

/-- `exec` is `execFor` at this hardware. -/
theorem exec_eq_execFor (i : Instr) (s : State) : exec i s = execFor i s := by cases i <;> rfl

theorem exec_eq : exec = execFor (p := hardware) := funext fun i => funext fun s => exec_eq_execFor i s

/-- `step` is `stepFor` at this hardware. -/
theorem step_eq_stepFor (s : State) : step s = stepFor s := by rw [step, stepFor, exec_eq]

/-- The host's machine is `coreFor` at this hardware. -/
theorem core_eq_coreFor : core = coreFor hardware := by
  rw [core, coreFor, ← funext step_eq_stepFor, State.reset_eq]

/-- All a step can do at any parameters: wait, run the command its first word decodes to, or return ERR_OPCODE. -/
theorem stepFor_cases {p : Params} (s : State p) :
    (s.pending = [] ∧ stepFor s = .next s) ∨
    ∃ w rest, s.pending = w :: rest ∧
      ((∃ i, decodeWord w = .instr i ∧ stepFor s = execFor i { s with pending := rest }) ∨
        ∃ why, decodeWord w = .illegal why ∧
          stepFor s = .next (State.respond { s with pending := rest } (Result.error .errOpcode p))) :=
  transact_cases execFor s

end Sys2Proof.Machine
end

