-- ==== Sys2Proof/Laws/Bitfield.lean ====
section
/-! SUPPORT. Bounds of the bit stream and its fields, and all an extraction can do. -/

namespace Sys2Proof.Machine

theorem payloadBit_lt_two (buf : List Byte) (i : Nat) : payloadBit buf i < 2 := by
  unfold payloadBit
  split
  · split
    · exact Nat.mod_lt _ (by decide)
    · decide
  · decide

/-- A field of `width` bits is below `2 ^ width` (R12 (e)). -/
theorem fieldBits_lt (buf : List Byte) (lo width : Nat) : fieldBits buf lo width < 2 ^ width := by
  induction width with
  | zero => simp [fieldBits]
  | succ n ih =>
    have := payloadBit_lt_two buf (lo + n)
    simp only [fieldBits, Nat.pow_succ]
    omega

/-- An empty field is 0 (R206). -/
@[simp] theorem field_self (buf : List Byte) (lo : Nat) : field buf lo lo = 0 := by simp [field, fieldBits]

/-- All an extraction can do: return its result when every check passes, or report the check that failed. -/
theorem extract_cases {p : Params} (k : Kind) (lo hi : BitVec 12) (r : Result) (s : State p) :
    (xcheck k lo.toNat hi.toNat s.payload p = .ok ∧ extract k lo hi r s = .next (s.respond r)) ∨
    (xcheck k lo.toNat hi.toNat s.payload p ≠ .ok ∧
      extract k lo hi r s = .next (s.respond (Result.error (xcheck k lo.toNat hi.toNat s.payload p) p))) := by
  unfold extract
  cases xcheck k lo.toNat hi.toNat s.payload p <;> simp [finish_eq, failWith_eq]

/-- The checks return OK or one of the four extraction errors (R205). -/
theorem xcheck_mem (k : Kind) (lo hi : Nat) (pr : Payload) (p : Params) :
    xcheck k lo hi pr p ∈ [Status.ok, .errNoPayload, .errArmor, .errRange, .errLength] := by
  unfold xcheck
  repeat' split
  all_goals simp

theorem armorOk_iff (buf : List Byte) : armorOk buf = true ↔ ∀ c ∈ buf, (six c).isSome = true := by
  simp [armorOk]

/-- Trimming keeps a leading part of the text (R213). -/
theorem trimFill_length_le (t : List Byte) : (trimFill t).length ≤ t.length := by
  unfold trimFill
  rw [List.length_reverse]
  exact le_trans (List.length_dropWhile_le _ _) (le_of_eq (List.length_reverse ..))

end Sys2Proof.Machine
end

