-- ==== Sys2Proof/Laws/Decode.lean ====
section
/-! SUPPORT. The bits of the encoder's words, format by format, and each field read back from them. -/

namespace Sys2Proof

/-! ## The bits of a word of each format (R82) -/

/-- The two parts of any word: 60 bits and the opcode above them. -/
theorem getLsbD_word (op : BitVec 4) (rest : BitVec 60) (i : Nat) :
    (op ++ rest : BitVec 64).getLsbD i = if i < 60 then rest.getLsbD i else op.getLsbD (i - 60) := by
  have h := BitVec.getLsbD_append (x := op) (y := rest) (i := i)
  exact h.trans (by split <;> simp [*])

theorem getLsbD_encodeN (op : BitVec 4) (i : Nat) :
    (encodeN op).getLsbD i = if i < 60 then false else op.getLsbD (i - 60) := by
  refine (getLsbD_word op _ i).trans ?_
  split
  · simp
  · rfl

theorem getLsbD_encodeB (op : BitVec 4) (c : Byte) (i : Nat) :
    (encodeB op c).getLsbD i =
      if i < 8 then c.getLsbD i else if i < 60 then false else op.getLsbD (i - 60) := by
  refine (getLsbD_word op _ i).trans ?_
  have h : (0#52 ++ c : BitVec 60).getLsbD i = _ := BitVec.getLsbD_append (x := 0#52) (y := c) (i := i)
  rw [h]
  by_cases h8 : i < 8
  · simp [h8, show i < 60 by omega]
  · simp [h8]

theorem getLsbD_encodeX (op : BitVec 4) (lo hi : BitVec 12) (i : Nat) :
    (encodeX op lo hi).getLsbD i =
      if i < 12 then lo.getLsbD i else if i < 16 then false else if i < 28 then hi.getLsbD (i - 16)
      else if i < 60 then false else op.getLsbD (i - 60) := by
  refine (getLsbD_word op _ i).trans ?_
  have h1 : (0#32 ++ (hi ++ (0#4 ++ lo)) : BitVec 60).getLsbD i = _ :=
    BitVec.getLsbD_append (x := 0#32) (y := hi ++ (0#4 ++ lo)) (i := i)
  have h2 : (hi ++ (0#4 ++ lo)).getLsbD i = _ := BitVec.getLsbD_append (x := hi) (y := 0#4 ++ lo) (i := i)
  have h3 : (0#4 ++ lo).getLsbD i = _ := BitVec.getLsbD_append (x := 0#4) (y := lo) (i := i)
  rw [h1, h2, h3]
  by_cases h12 : i < 12
  · simp [h12, show i < 60 by omega, show i < 28 by omega, show i < 16 by omega]
  · by_cases h16 : i < 16
    · simp [h12, h16, show i < 60 by omega, show i < 28 by omega]
    · by_cases h28 : i < 28
      · simp [h12, h16, h28, show i < 60 by omega]
      · simp [h12, h16, h28]

theorem getLsbD_encodeT (op : BitVec 4) (slot : BitVec 8) (t : BitVec 32) (i : Nat) :
    (encodeT op slot t).getLsbD i =
      if i < 32 then t.getLsbD i else if i < 40 then slot.getLsbD (i - 32)
      else if i < 60 then false else op.getLsbD (i - 60) := by
  refine (getLsbD_word op _ i).trans ?_
  have h1 : (0#20 ++ (slot ++ t) : BitVec 60).getLsbD i = _ :=
    BitVec.getLsbD_append (x := 0#20) (y := slot ++ t) (i := i)
  have h2 : (slot ++ t).getLsbD i = _ := BitVec.getLsbD_append (x := slot) (y := t) (i := i)
  rw [h1, h2]
  by_cases h32 : i < 32
  · simp [h32, show i < 60 by omega, show i < 40 by omega]
  · by_cases h40 : i < 40
    · simp [h32, h40, show i < 60 by omega]
    · simp [h32, h40]

theorem getLsbD_encodeG (op : BitVec 4) (timeout : BitVec 16) (listmax : BitVec 8) (i : Nat) :
    (encodeG op timeout listmax).getLsbD i =
      if i < 16 then timeout.getLsbD i else if i < 24 then listmax.getLsbD (i - 16)
      else if i < 60 then false else op.getLsbD (i - 60) := by
  refine (getLsbD_word op _ i).trans ?_
  have h1 : (0#36 ++ (listmax ++ timeout) : BitVec 60).getLsbD i = _ :=
    BitVec.getLsbD_append (x := 0#36) (y := listmax ++ timeout) (i := i)
  have h2 : (listmax ++ timeout).getLsbD i = _ := BitVec.getLsbD_append (x := listmax) (y := timeout) (i := i)
  rw [h1, h2]
  by_cases h16 : i < 16
  · simp [h16, show i < 60 by omega, show i < 24 by omega]
  · by_cases h24 : i < 24
    · simp [h16, h24, show i < 60 by omega]
    · simp [h16, h24]

/-! ## The opcode -/

theorem fieldOp_word (op : BitVec 4) (rest : BitVec 60) : fieldOp (op ++ rest : BitVec 64) = op := by
  apply BitVec.eq_of_getLsbD_eq
  intro i hi
  simp [fieldOp, getLsbD_word, hi]

theorem fieldRest_word (op : BitVec 4) (rest : BitVec 60) : fieldRest (op ++ rest : BitVec 64) = rest := by
  apply BitVec.eq_of_getLsbD_eq
  intro i hi
  simp [fieldRest, getLsbD_word, hi]

@[simp] theorem fieldOp_encodeN (op : BitVec 4) : fieldOp (encodeN op) = op := fieldOp_word op _
@[simp] theorem fieldOp_encodeB (op : BitVec 4) (c : Byte) : fieldOp (encodeB op c) = op := fieldOp_word op _
@[simp] theorem fieldOp_encodeX (op : BitVec 4) (lo hi : BitVec 12) : fieldOp (encodeX op lo hi) = op :=
  fieldOp_word op _
@[simp] theorem fieldOp_encodeT (op : BitVec 4) (slot : BitVec 8) (t : BitVec 32) : fieldOp (encodeT op slot t) = op :=
  fieldOp_word op _
@[simp] theorem fieldOp_encodeG (op : BitVec 4) (timeout : BitVec 16) (listmax : BitVec 8) :
    fieldOp (encodeG op timeout listmax) = op := fieldOp_word op _

/-! ## The operands (R85 to R88) -/

@[simp] theorem fieldC_encodeB (op : BitVec 4) (c : Byte) : fieldC (encodeB op c) = c := by
  apply BitVec.eq_of_getLsbD_eq
  intro i hi
  simp [fieldC, getLsbD_encodeB, hi]

@[simp] theorem fieldLo_encodeX (op : BitVec 4) (lo hi : BitVec 12) : fieldLo (encodeX op lo hi) = lo := by
  apply BitVec.eq_of_getLsbD_eq
  intro i hi
  simp [fieldLo, getLsbD_encodeX, hi]

@[simp] theorem fieldHi_encodeX (op : BitVec 4) (lo hi : BitVec 12) : fieldHi (encodeX op lo hi) = hi := by
  apply BitVec.eq_of_getLsbD_eq
  intro i h
  simp [fieldHi, getLsbD_encodeX, h, show ¬ 16 + i < 12 by omega, show 16 + i < 28 by omega]

@[simp] theorem fieldT_encodeT (op : BitVec 4) (slot : BitVec 8) (t : BitVec 32) : fieldT (encodeT op slot t) = t := by
  apply BitVec.eq_of_getLsbD_eq
  intro i hi
  simp [fieldT, getLsbD_encodeT, hi]

@[simp] theorem fieldSlot_encodeT (op : BitVec 4) (slot : BitVec 8) (t : BitVec 32) :
    fieldSlot (encodeT op slot t) = slot := by
  apply BitVec.eq_of_getLsbD_eq
  intro i h
  simp [fieldSlot, getLsbD_encodeT, h, show 32 + i < 40 by omega]

@[simp] theorem fieldTimeout_encodeG (op : BitVec 4) (timeout : BitVec 16) (listmax : BitVec 8) :
    fieldTimeout (encodeG op timeout listmax) = timeout := by
  apply BitVec.eq_of_getLsbD_eq
  intro i hi
  simp [fieldTimeout, getLsbD_encodeG, hi]

@[simp] theorem fieldListmax_encodeG (op : BitVec 4) (timeout : BitVec 16) (listmax : BitVec 8) :
    fieldListmax (encodeG op timeout listmax) = listmax := by
  apply BitVec.eq_of_getLsbD_eq
  intro i h
  simp [fieldListmax, getLsbD_encodeG, h, show 16 + i < 24 by omega]

/-! ## The reserved-bit masks, bit by bit (R82) -/

/-- A mask test is a test of each of its bits. -/
theorem and_eq_zero_iff (w mask : CmdWord) :
    w &&& mask = 0#64 ↔ ∀ i, i < 64 → mask.getLsbD i = true → w.getLsbD i = false := by
  constructor
  · intro h i _ hm
    have hb := congrArg (fun v : CmdWord => v.getLsbD i) h
    simpa [hm] using hb
  · intro h
    apply BitVec.eq_of_getLsbD_eq
    intro i hi
    cases hm : mask.getLsbD i with
    | false => simp [hm]
    | true => simp [hm, h i hi hm]

theorem getLsbD_reservedN : ∀ i, i < 64 → reservedN.getLsbD i = decide (i ≤ 59) := by decide
theorem getLsbD_reservedB : ∀ i, i < 64 → reservedB.getLsbD i = decide (8 ≤ i ∧ i ≤ 59) := by decide
theorem getLsbD_reservedX : ∀ i, i < 64 →
    reservedX.getLsbD i = decide (28 ≤ i ∧ i ≤ 59 ∨ 12 ≤ i ∧ i ≤ 15) := by decide
theorem getLsbD_reservedT : ∀ i, i < 64 → reservedT.getLsbD i = decide (40 ≤ i ∧ i ≤ 59) := by decide
theorem getLsbD_reservedG : ∀ i, i < 64 → reservedG.getLsbD i = decide (24 ≤ i ∧ i ≤ 59) := by decide

end Sys2Proof
end

