-- ==== Sys2Proof/Laws/Framer.lean ====
section
/-! SUPPORT. What the parts of DECODE do: completing a term writes only the failure cause and the staging registers, the term
buffer keeps its bound, and a DECODE either closes a sentence or only moves the framer. -/

namespace Sys2Proof.Machine

/-! ## Completing a term touches no framer register but the failure cause (R128) -/

/-- All a parse step can do to the framer registers: nothing, or record a failure. -/
theorem completeTerm_fr (k : BitVec 3) (s : Sentence) (p : Params) :
    ∃ w, (completeTerm k s p).fr = { s.fr with why := w } := by
  have hf : ∀ (t : Sentence) (c : Cause), ∃ w, (t.fail c).fr = { t.fr with why := w } := by
    intro t c; unfold Sentence.fail; split
    · exact ⟨c, rfl⟩
    · exact ⟨t.fr.why, rfl⟩
  have hs : ∀ (st : Staging), ∃ w, ({ s with st := st } : Sentence).fr = { s.fr with why := w } :=
    fun _ => ⟨s.fr.why, rfl⟩
  have h0 : ∃ w, (term0 s).fr = { s.fr with why := w } := by
    unfold term0; split
    · exact ⟨s.fr.why, rfl⟩
    · exact hf _ _
  have h1 : ∃ w, (term1 s p).fr = { s.fr with why := w } := by
    unfold term1; split
    · split
      · exact hs _
      · exact hf _ _
    · exact hf _ _
  have h2 : ∃ w, (term2 s).fr = { s.fr with why := w } := by
    unfold term2; split
    · split
      · exact hs _
      · exact hf _ _
    · exact hf _ _
  have h3 : ∃ w, (term3 s p).fr = { s.fr with why := w } := by
    unfold term3; split
    · simp only; split
      · exact hf { s with st := { s.st with idp := false, id := 0#8 } } .errTerm
      · exact hs _
    · split
      · split
        · exact hs _
        · exact hf _ _
      · exact hf _ _
  have h5 : ∃ w, (term5 s).fr = { s.fr with why := w } := by
    unfold term5; split
    · exact hf _ _
    · exact hs _
  have h6 : ∃ w, (term6 s).fr = { s.fr with why := w } := by
    unfold term6; split
    · split
      · split
        · exact hs _
        · exact hf _ _
      · exact hf _ _
    · exact hf _ _
    · exact hf _ _
  unfold completeTerm
  split
  · exact ⟨s.fr.why, rfl⟩
  · split
    · exact h0
    · split
      · exact hf _ _
      · split
        · exact hf _ _
        · unfold termStep
          split
          · exact h1
          · exact h2
          · exact h3
          · exact ⟨s.fr.why, rfl⟩
          · exact h5
          · exact h6

@[simp] theorem completeTerm_done (k : BitVec 3) (s : Sentence) (p : Params) : (completeTerm k s p).fr.done = s.fr.done := by
  obtain ⟨w, h⟩ := completeTerm_fr k s p; rw [h]
@[simp] theorem completeTerm_cks (k : BitVec 3) (s : Sentence) (p : Params) : (completeTerm k s p).fr.cks = s.fr.cks := by
  obtain ⟨w, h⟩ := completeTerm_fr k s p; rw [h]
@[simp] theorem completeTerm_tidx (k : BitVec 3) (s : Sentence) (p : Params) : (completeTerm k s p).fr.tidx = s.fr.tidx := by
  obtain ⟨w, h⟩ := completeTerm_fr k s p; rw [h]
@[simp] theorem completeTerm_tbuf (k : BitVec 3) (s : Sentence) (p : Params) : (completeTerm k s p).fr.tbuf = s.fr.tbuf := by
  obtain ⟨w, h⟩ := completeTerm_fr k s p; rw [h]
@[simp] theorem completeTerm_tovf (k : BitVec 3) (s : Sentence) (p : Params) : (completeTerm k s p).fr.tovf = s.fr.tovf := by
  obtain ⟨w, h⟩ := completeTerm_fr k s p; rw [h]
@[simp] theorem completeTerm_acc (k : BitVec 3) (s : Sentence) (p : Params) : (completeTerm k s p).fr.acc = s.fr.acc := by
  obtain ⟨w, h⟩ := completeTerm_fr k s p; rw [h]

/-- A failed sentence is not parsed (R128). -/
theorem completeTerm_of_failed (k : BitVec 3) {s : Sentence} (p : Params) (h : s.fr.why ≠ .ok) :
    completeTerm k s p = s := by
  simp [completeTerm, h]

/-! ## The term buffer keeps its bound (R61, R123) -/

theorem bufferOk_cleared (d : Bool) : (sentenceReset d).fr.BufferOk :=
  ⟨by simp, by simp, by simp⟩

theorem bufferOk_clearTerm (f : Framer) : f.clearTerm.BufferOk := ⟨by simp, by simp, by simp⟩

theorem bufferOk_pushByte {f : Framer} (h : f.BufferOk) {c : Byte} (hc : classify c = .ordinary) :
    (f.pushByte c).BufferOk := by
  by_cases hl : f.tbuf.length < Config.termCap
  · rw [pushByte_of_room (p := hardware) c hl]
    refine ⟨?_, ?_, ?_⟩
    · simp only [List.length_append, List.length_singleton]; omega
    · intro ho; have := h.full ho; omega
    · intro x hx
      simp only [List.mem_append, List.mem_singleton] at hx
      rcases hx with hx | rfl
      · exact h.plain x hx
      · exact hc
  · rw [pushByte_of_full (p := hardware) c (not_lt.mp hl)]
    exact ⟨h.bound, fun _ => le_antisymm h.bound (not_lt.mp hl), h.plain⟩

/-! ## What a DECODE does -/

/-- All a DECODE can do: move the framer and return `(OK, 0, R_NONE)`, or, on a terminator inside a sentence, close it. -/
theorem execDecode_cases {p : Params} (c : Byte) (s : State p) :
    (∃ x, execDecode c s = .next (State.respond { s with sentence := x } (Result.ok 0#32 p))) ∨
    (classify c = .terminator ∧ s.sentence.fr.done = false ∧ execDecode c s = closeSentence s) := by
  unfold execDecode framerStep
  split
  · exact .inl ⟨_, rfl⟩
  · left; split <;> exact ⟨_, rfl⟩
  · left; split <;> exact ⟨_, rfl⟩
  · left; split <;> exact ⟨_, rfl⟩
  · by_cases hd : s.sentence.fr.done = true
    · rw [if_pos hd]; exact .inl ⟨_, rfl⟩
    · rw [if_neg hd]; exact .inr ⟨by assumption, by simpa using hd, rfl⟩

/-- All a close can do: hand a valid fragment to ACCEPT, or report the cause of a failed sentence (R130). -/
theorem closeSentence_cases {p : Params} (s : State p) :
    ((closeCheck s.sentence p).fr.why = .ok ∧
      closeSentence s =
        .next (State.respond
          { s with
            sentence := sentenceReset true
            fifo := (accept (closeCheck s.sentence p).st.fragment s.fifo s.payload p).fifo
            payload := (accept (closeCheck s.sentence p).st.fragment s.fifo s.payload p).payload }
          (Result.plain .fragment 0#32 (accept (closeCheck s.sentence p).st.fragment s.fifo s.payload p).rstat p))) ∨
    ((closeCheck s.sentence p).fr.why ≠ .ok ∧
      closeSentence s =
        .next (State.respond { s with sentence := sentenceReset true }
          (Result.plain (closeCheck s.sentence p).fr.why.closeStatus 0#32 .none p))) := by
  by_cases h : (closeCheck s.sentence p).fr.why = .ok
  · left; exact ⟨h, by simp [closeSentence, h, finish]⟩
  · right; exact ⟨h, by simp [closeSentence, h, finish]⟩

end Sys2Proof.Machine
end

