-- ==== Sys2Proof/Laws/PerInstr.lean ====
section
/-! SUPPORT. The family TableRow: a command's word matches its row of spec/opcode_table.json, and no row's fixed bits hide an
operand. -/

namespace Sys2Proof.Laws.TableRow

/-- The `match` and `mask` numbers of the command's row in spec/opcode_table.json. -/
def row (i : Instr) : CmdWord × CmdWord :=
  match i with
  | .nop => (0x0000000000000000#64, 0xFFFFFFFFFFFFFFFF#64)
  | .reset => (0x1000000000000000#64, 0xFFFFFFFFFFFFFFFF#64)
  | .decode _ => (0x2000000000000000#64, 0xFFFFFFFFFFFFFF00#64)
  | .c6 _ => (0x3000000000000000#64, 0xFFFFFFFFFFFFFF00#64)
  | .getu _ _ => (0x4000000000000000#64, 0xFFFFFFFFF000F000#64)
  | .gets _ _ => (0x5000000000000000#64, 0xFFFFFFFFF000F000#64)
  | .getc _ _ => (0x6000000000000000#64, 0xFFFFFFFFF000F000#64)
  | .setcfg _ _ => (0x7000000000000000#64, 0xFFFFFFFFFF000000#64)
  | .touch _ _ => (0x8000000000000000#64, 0xFFFFFF0000000000#64)
  | .age _ _ => (0x9000000000000000#64, 0xFFFFFF0000000000#64)
  | .tick _ => (0xA000000000000000#64, 0xFFFFFFFF00000000#64)
  | .rdslot _ => (0xB000000000000000#64, 0xFFFFFF00FFFFFFFF#64)
  | .rdfifo _ => (0xC000000000000000#64, 0xFFFFFF00FFFFFFFF#64)
  | .rdpr => (0xD000000000000000#64, 0xFFFFFFFFFFFFFFFF#64)
  | .reservedE _ => (0xE000000000000000#64, 0xF000000000000000#64)
  | .reservedF _ => (0xF000000000000000#64, 0xF000000000000000#64)

/-- The command's word has its row's fixed bits. -/
def Statement (i : Instr) : Prop := encode i &&& (row i).2 = (row i).1

/-- A word agrees with a row when it does so bit by bit. -/
theorem match_of_bits {w mask m : CmdWord} (h : ∀ i, i < 64 → (w.getLsbD i && mask.getLsbD i) = m.getLsbD i) :
    w &&& mask = m :=
  BitVec.eq_of_getLsbD_eq fun i hi => by simpa using h i hi

theorem nop : Statement .nop := by
  apply match_of_bits
  intro i hi
  simp only [encode, getLsbD_encodeN, row]
  interval_cases i <;> simp

theorem reset : Statement .reset := by
  apply match_of_bits
  intro i hi
  simp only [encode, getLsbD_encodeN, row]
  interval_cases i <;> simp

theorem decode (c : Byte) : Statement (.decode c) := by
  apply match_of_bits
  intro i hi
  simp only [encode, getLsbD_encodeB, row]
  interval_cases i <;> simp

theorem c6 (c : Byte) : Statement (.c6 c) := by
  apply match_of_bits
  intro i hi
  simp only [encode, getLsbD_encodeB, row]
  interval_cases i <;> simp

theorem getu (lo : BitVec 12) (hi : BitVec 12) : Statement (.getu lo hi) := by
  apply match_of_bits
  intro i hi
  simp only [encode, getLsbD_encodeX, row]
  interval_cases i <;> simp

theorem gets (lo : BitVec 12) (hi : BitVec 12) : Statement (.gets lo hi) := by
  apply match_of_bits
  intro i hi
  simp only [encode, getLsbD_encodeX, row]
  interval_cases i <;> simp

theorem getc (lo : BitVec 12) (hi : BitVec 12) : Statement (.getc lo hi) := by
  apply match_of_bits
  intro i hi
  simp only [encode, getLsbD_encodeX, row]
  interval_cases i <;> simp

theorem setcfg (timeout : BitVec 16) (listmax : BitVec 8) : Statement (.setcfg timeout listmax) := by
  apply match_of_bits
  intro i hi
  simp only [encode, getLsbD_encodeG, row]
  interval_cases i <;> simp

theorem touch (slot : BitVec 8) (t : BitVec 32) : Statement (.touch slot t) := by
  apply match_of_bits
  intro i hi
  simp only [encode, getLsbD_encodeT, row]
  interval_cases i <;> simp

theorem age (slot : BitVec 8) (now : BitVec 32) : Statement (.age slot now) := by
  apply match_of_bits
  intro i hi
  simp only [encode, getLsbD_encodeT, row]
  interval_cases i <;> simp

theorem tick (now : BitVec 32) : Statement (.tick now) := by
  apply match_of_bits
  intro i hi
  simp only [encode, getLsbD_encodeT, row]
  interval_cases i <;> simp

theorem rdslot (slot : BitVec 8) : Statement (.rdslot slot) := by
  apply match_of_bits
  intro i hi
  simp only [encode, getLsbD_encodeT, row]
  interval_cases i <;> simp

theorem rdfifo (pos : BitVec 8) : Statement (.rdfifo pos) := by
  apply match_of_bits
  intro i hi
  simp only [encode, getLsbD_encodeT, row]
  interval_cases i <;> simp

theorem rdpr : Statement .rdpr := by
  apply match_of_bits
  intro i hi
  simp only [encode, getLsbD_encodeN, row]
  interval_cases i <;> simp

theorem reservedE (rest : BitVec 60) : Statement (.reservedE rest) := by
  apply match_of_bits
  intro i hi
  rw [show (encode (.reservedE rest)).getLsbD i = _ from getLsbD_word _ rest i]
  interval_cases i <;> simp [row]

theorem reservedF (rest : BitVec 60) : Statement (.reservedF rest) := by
  apply match_of_bits
  intro i hi
  rw [show (encode (.reservedF rest)).getLsbD i = _ from getLsbD_word _ rest i]
  interval_cases i <;> simp [row]

end Sys2Proof.Laws.TableRow
end

