-- ==== Sys2Proof/Laws/Reassembly.lean ====
section
/-! SUPPORT. The FIFO search and all ACCEPT can do. -/

namespace Sys2Proof.Machine

/-- No entry has the id: the search finds none (R173). -/
theorem findPartial_none {id : Byte} {fifo : List Partial} (h : ∀ x ∈ fifo, x.id ≠ id) : findPartial id fifo = none := by
  unfold findPartial
  rw [List.findIdx?_eq_none_iff]
  intro x hx
  simpa using h x hx

/-- The first entry of the id is found at its position (R173). -/
theorem findPartial_append {id : Byte} {front rest : List Partial} {e : Partial} (hf : ∀ x ∈ front, x.id ≠ id)
    (he : e.id = id) : findPartial id (front ++ e :: rest) = some front.length := by
  induction front with
  | nil => simp [findPartial, List.findIdx?_cons, he]
  | cons a front ih =>
    have ha : (a.id == id) = false := by simpa using hf a (by simp)
    have ih := ih fun x hx => hf x (by simp [hx])
    unfold findPartial at ih ⊢
    rw [List.cons_append, List.findIdx?_cons, ha, ih]
    simp

/-- The FIFO splits around the entry of an id, or has none of it. -/
theorem fifo_split (id : Byte) (fifo : List Partial) :
    (∀ x ∈ fifo, x.id ≠ id) ∨
    ∃ front e rest, fifo = front ++ e :: rest ∧ (∀ x ∈ front, x.id ≠ id) ∧ e.id = id := by
  induction fifo with
  | nil => left; simp
  | cons a fifo ih =>
    by_cases ha : a.id = id
    · right; exact ⟨[], a, fifo, rfl, by simp, ha⟩
    · rcases ih with h | ⟨front, e, rest, rfl, hf, he⟩
      · left; intro x hx; rcases List.mem_cons.mp hx with rfl | hx
        · exact ha
        · exact h x hx
      · right
        refine ⟨a :: front, e, rest, rfl, ?_, he⟩
        intro x hx; rcases List.mem_cons.mp hx with rfl | hx
        · exact ha
        · exact hf x hx

/-- ACCEPT of an id the FIFO does not hold (R177). -/
theorem accept_of_new {f : Fragment} {fifo : List Partial} (pr : Payload) (p : Params) (ht : f.total ≠ 1#4)
    (h : ∀ x ∈ fifo, x.id ≠ f.id) : accept f fifo pr p = acceptNew f fifo pr p := by
  simp [accept, ht, findPartial_none h]

/-- ACCEPT of an id the FIFO holds (R174 to R176). -/
theorem accept_of_match {f : Fragment} {front rest : List Partial} {e : Partial} (pr : Payload) (p : Params) (ht : f.total ≠ 1#4)
    (hf : ∀ x ∈ front, x.id ≠ f.id) (he : e.id = f.id) :
    accept f (front ++ e :: rest) pr p = acceptMatch f front.length e (front ++ e :: rest) pr := by
  simp [accept, ht, findPartial_append hf he]

/-- Deleting the entry at its position closes up the entries behind it (R171 `remove`). -/
theorem eraseIdx_split (front rest : List Partial) (e : Partial) :
    (front ++ e :: rest).eraseIdx front.length = front ++ rest := by
  induction front with
  | nil => rfl
  | cons a front ih => simpa using ih

/-- Rewriting the entry at its position keeps its place (R174). -/
theorem set_split (front rest : List Partial) (e e' : Partial) :
    (front ++ e :: rest).set front.length e' = front ++ e' :: rest := by
  induction front with
  | nil => rfl
  | cons a front ih => simp

end Sys2Proof.Machine
end

