-- ==== Sys2Proof/Tests/Slice0.lean ====
section
/-! SUPPORT. The model's own tests, and for every statement with hypotheses a witness that meets them.
Expected values come from spec/95_test_vectors.md and spec/30_encoding.md R107, by the row each comment names. -/

namespace Sys2Proof.Tests
open Sys2Proof Sys2Proof.Machine Sys2Proof.Claims

/-! ## Helpers -/

/-- The bytes of a text. -/
def bytes (t : String) : List Byte := t.toList.map fun c => BitVec.ofNat 8 c.toNat

/-- The step or command went on. -/
def goesOn (o : Host.Outcome State Fault Refusal) : Bool :=
  match o with
  | .next _ => true
  | .fault _ => false
  | .refused _ => false

/-- The state it left. -/
def after (o : Host.Outcome State Fault Refusal) : State :=
  match o with
  | .next t => t
  | .fault _ => State.reset
  | .refused _ => State.reset

/-- The last result record it returned. -/
def last (o : Host.Outcome State Fault Refusal) : Option Result := (after o).results.getLast?

/-- The status and value of that record. -/
def answer (o : Host.Outcome State Fault Refusal) : Option (Status × Value) := (last o).map fun r => (r.status, r.value)

/-- The status and outcome of that record. -/
def close (o : Host.Outcome State Fault Refusal) : Option (Status × Rstat) := (last o).map fun r => (r.status, r.rstat)

/-- One step of the block on the command word `w`. -/
def run (w : Nat) (s : State) : Host.Outcome State Fault Refusal := step (s.withFetchWord 64 w)

theorem next_after (o : Host.Outcome State Fault Refusal) (h : goesOn o = true) : o = .next (after o) := by
  cases o <;> simp_all [goesOn, after]

/-- A sentence in its body: term `k` has the bytes `t` so far. -/
def inBody (k : BitVec 3) (t : List Byte) (acc : Byte) (st : Staging) : State :=
  { State.reset with
    sentence := { fr := { done := false, cks := false, why := .ok, tidx := k, tbuf := t, tovf := false, acc := acc }, st := st } }

/-- The sentence `AIVDM,1,1,,A,1,0`, whose checksum is 0x17, in its checksum section with the field `t`. -/
def inField (t : List Byte) : State :=
  { State.reset with
    sentence :=
      { fr := { done := false, cks := true, why := .ok, tidx := 6#3, tbuf := t, tovf := false, acc := 0x17#8 }
        st := { total := 1#4, num := 1#4, idp := false, id := 0#8, pay := bytes "1", fill := 0#3 } } }

/-- The last fragment of message 3, its checksum section read. -/
def lastFragment : Sentence :=
  { fr := { done := false, cks := true, why := .ok, tidx := 6#3, tbuf := bytes "55", tovf := false, acc := 0x55#8 }
    st := { total := 2#4, num := 2#4, idp := true, id := 3#8, pay := bytes "1@", fill := 2#3 } }

/-- A payload register that holds `t` with `fill` fill bits. -/
def withPayload (t : List Byte) (fill : BitVec 3) : State :=
  { State.reset with payload := { valid := true, fill := fill, buf := t } }

/-- The payload of the fixture of 95_test_vectors.md section 1.1. -/
def fixture : State := withPayload (bytes "15M67FC000G?ufbE`FepT@3n00Sa") 0#3

/-- A vessel table with one live slot under a configuration. -/
def withSlot (timeout : Seconds) (listmax : BitVec 8) (i : Nat) (stamp : Millis) : State :=
  { State.reset with
    cfg := { timeout := timeout, listmax := listmax }
    vessels := State.reset.vessels.setIfInBounds i { live := true, last := stamp } }

/-- One in-flight message of two fragments. -/
def entry (id : Byte) : Partial := { id := id, total := 2#4, next := 2#4, cnt := 1#4, buf := bytes "10" }

/-- Fragment `num` of `total` of message `id`. -/
def frag (total num : BitVec 4) (id : Byte) : Fragment :=
  { total := total, num := num, idp := true, id := id, pay := bytes "20", fill := 2#3 }

/-- A full FIFO, ids 0 to 9. -/
def fullFifo : List Partial := (List.range 10).map fun k => entry (BitVec.ofNat 8 k)

/-- A state with something in every group: the word waiting on the port is NOP. -/
def busy : State :=
  { sentence :=
      { fr := { done := false, cks := false, why := .ok, tidx := 3#3, tbuf := bytes "25", tovf := false, acc := 0x12#8 }
        st := { total := 2#4, num := 1#4, idp := false, id := 0#8, pay := [], fill := 0#3 } }
    fifo := [entry 3#8, entry 7#8]
    payload := { valid := true, fill := 2#3, buf := bytes "15M" }
    vessels := State.reset.vessels.setIfInBounds 2 { live := true, last := 1000#32 }
    cfg := { timeout := 10#16, listmax := 4#8 }
    pending := [0#64]
    results := [] }

/-- Parameters that R7 allows and this hardware does not take. -/
def otherParams : Params :=
  { termCap := 3, maxTotal := 4, idMax := 9, fifoN := 3, wMax := 16, strMax := 3, vslots := 8, tsW := 16, toW := 4 }

/-- A block with those parameters: a timeout of 1 second, eight slots in use, the last one live. -/
def otherBlock : State otherParams :=
  { State.powerOn otherParams with
    cfg := { timeout := 1#4, listmax := 8#8 }
    vessels := (State.powerOn otherParams).vessels.setIfInBounds 7 { live := true, last := 0xFF00#16 } }

/-! ## WellFormed and the assembler's operand check -/

theorem test_reservedE_not_wellFormed : (Instr.reservedE 0#60).wellFormed = false := by decide
theorem test_reservedF_not_wellFormed : (Instr.reservedF 5#60).wellFormed = false := by decide
theorem test_rdpr_wellFormed : Instr.rdpr.wellFormed = true := by decide

/-- R105: an operand one past its field, for every operand, and a SENT marker that is no start marker. -/
theorem test_operands_that_do_not_fit :
    [AsmLine.decode 256, .c6 256, .getu 4096 0, .getu 0 4096, .gets 4096 0, .gets 0 4096, .getc 4096 0, .getc 0 4096,
      .setcfg 65536 0, .setcfg 0 256, .touch 256 0, .touch 0 4294967296, .age 256 0, .age 0 4294967296, .tick 4294967296,
      .rdslot 256, .rdfifo 256, .sent 0x41#8 []].map AsmLine.assemble = List.replicate 18 none := by decide

/-- R105, R107: lines of text and their words. -/
theorem test_text_assembles :
    assembleText "GETU 8, 38".toList = some [0x4000000000260008#64] ∧
    assembleText "C6 'W'".toList = some [0x3000000000000057#64] ∧
    assembleText "DECODE 0x0D".toList = some [0x200000000000000D#64] ∧
    assembleText "SETCFG 65536, 1".toList = none := by decide

/-- R106: `SENT '!', "AIVDM,1,1,,A,1,0"` ends with `*17`, CR and LF (95_test_vectors.md V43). -/
theorem test_sent_appends_checksum :
    sentBytes 0x21#8 (bytes "AIVDM,1,1,,A,1,0") = bytes "!AIVDM,1,1,,A,1,0*17\r\n" := by decide

/-! ## Decoding: words written out from R82 and R83, one for each constructor -/

theorem test_decode_nop : decodeWord 0x0000000000000000#64 = .instr .nop := by decide
theorem test_decode_reset : decodeWord 0x1000000000000000#64 = .instr .reset := by decide
theorem test_decode_decode : decodeWord 0x2000000000000024#64 = .instr (.decode 0x24#8) := by decide
theorem test_decode_c6 : decodeWord 0x3000000000000077#64 = .instr (.c6 0x77#8) := by decide
theorem test_decode_getu : decodeWord 0x4000000000A80088#64 = .instr (.getu 136#12 168#12) := by decide
theorem test_decode_gets : decodeWord 0x5000000000740059#64 = .instr (.gets 89#12 116#12) := by decide
theorem test_decode_getc : decodeWord 0x6000000001A6012E#64 = .instr (.getc 302#12 422#12) := by decide
theorem test_decode_setcfg : decodeWord 0x700000000001FFFF#64 = .instr (.setcfg 65535#16 1#8) := by decide
theorem test_decode_touch : decodeWord 0x8000001F00000064#64 = .instr (.touch 31#8 100#32) := by decide
theorem test_decode_age : decodeWord 0x9000001F00000000#64 = .instr (.age 31#8 0#32) := by decide
theorem test_decode_tick : decodeWord 0xA000000000004E20#64 = .instr (.tick 20000#32) := by decide
theorem test_decode_rdslot : decodeWord 0xB000002000000000#64 = .instr (.rdslot 32#8) := by decide
theorem test_decode_rdfifo : decodeWord 0xC00000FF00000000#64 = .instr (.rdfifo 255#8) := by decide
theorem test_decode_rdpr : decodeWord 0xD000000000000000#64 = .instr .rdpr := by decide
theorem test_decode_reservedE : decodeWord 0xE000000000000000#64 = .instr (.reservedE 0#60) := by decide
theorem test_decode_reservedF :
    decodeWord 0xFFFFFFFFFFFFFFFF#64 = .instr (.reservedF 0xFFFFFFFFFFFFFFF#60) := by decide

/-- 95_test_vectors.md section 2.6: illegal words, each refused by its own name. -/
theorem test_decode_refuses :
    [0x0000000000000001#64, 0x1800000000000000#64, 0x2000000000000121#64, 0x3000000000010030#64, 0x4000000000001000#64,
      0x4000000010000000#64, 0x7000000001000000#64, 0x8000010000000000#64, 0xD000000000000100#64].map decodeWord =
      List.replicate 9 (.illegal .reservedBit) ∧
    decodeWord 0xA000000100000000#64 = .illegal .tickSlot ∧
    decodeWord 0xB000000000000001#64 = .illegal .readTime ∧
    decodeWord 0xC000000000000001#64 = .illegal .readTime := by decide

theorem test_table_word : decodeTableWord 64 0x4000000000260008 = some (.getu 8#12 38#12) := by decide

/-! ## One step of each command -/

theorem test_nop : answer (run 0x0000000000000000 busy) = some (.ok, 0#32) := by decide
theorem test_illegal_word : answer (run 0x0000000000000001 busy) = some (.errOpcode, 0#32) := by decide
theorem test_reserved : answer (run 0xE000000000000000 busy) = some (.errOpcode, 0#32) := by decide
theorem test_reset_clears :
    (after (run 0x1000000000000000 busy)).fifo = [] ∧ (after (run 0x1000000000000000 busy)).cfg.listmax = 0#8 := by decide

/-- The comma after `AIVDM,1` of 95_test_vectors.md section 3.5 P10: term 1 is parsed and term 2 begins. -/
theorem test_comma_parses_total :
    (after (run 0x200000000000002C (inBody 1#3 (bytes "1") 0x4A#8 Staging.zero))).sentence =
      { fr := { done := false, cks := false, why := .ok, tidx := 2#3, tbuf := [], tovf := false, acc := 0x66#8 }
        st := { Staging.zero with total := 1#4 } } := by decide

/-- 95_test_vectors.md V43, V21, V16 and V18: the four readings of a checksum field. -/
theorem test_close :
    close (run 0x200000000000000D (inField (bytes "17"))) = some (.fragment, .single) ∧
    close (run 0x200000000000000D (inField (bytes "00"))) = some (.errChecksum, .none) ∧
    close (run 0x200000000000000D (inField (bytes "5c"))) = some (.errHex, .none) ∧
    close (run 0x200000000000000D (inField [])) = some (.errHex, .none) := by decide

theorem test_c6 : answer (run 0x3000000000000060 State.reset) = some (.ok, 0x28#32) := by decide
theorem test_c6_gap : answer (run 0x3000000000000058 State.reset) = some (.errArmor, 0#32) := by decide
theorem test_getu : answer (run 0x4000000000260008 fixture) = some (.ok, 0x15D18759#32) := by decide
theorem test_getu_past_end : answer (run 0x4000000000A90089 fixture) = some (.errLength, 0#32) := by decide
theorem test_gets : answer (run 0x500000000059003D fixture) = some (.ok, 0xFB9FEDD5#32) := by decide
theorem test_gets_one_bit : answer (run 0x5000000000060005 fixture) = some (.ok, 0xFFFFFFFF#32) := by decide

/-- 95_test_vectors.md section 2.4, `1P1` and `1P0P`: the interior space is kept and trailing fill is trimmed. -/
theorem test_getc :
    last (run 0x6000000000120000 (withPayload (bytes "1P1") 0#3)) =
      some { status := .ok, value := 3#32, rstat := .none, str := bytes "A A" ++ List.replicate 17 0#8 } := by decide
theorem test_getc_trims :
    last (run 0x6000000000180000 (withPayload (bytes "1P0P") 0#3)) =
      some { status := .ok, value := 1#32, rstat := .none, str := bytes "A" ++ List.replicate 19 0#8 } := by decide

theorem test_setcfg : (after (run 0x700000000004000A State.reset)).cfg = { timeout := 10#16, listmax := 4#8 } := by decide
theorem test_setcfg_too_many : answer (run 0x7000000000210000 busy) = some (.errRange, 0#32) := by decide
theorem test_touch :
    (after (run 0x8000000300001388 busy)).vessels[3]? = some { live := true, last := 5000#32 } := by decide
theorem test_touch_listmax : answer (run 0x8000000400000005 busy) = some (.errSlot, 0#32) := by decide

/-- E8, E9: the boundary of the timeout. -/
theorem test_age : answer (run 0x9000000200002AF8 busy) = some (.ok, 2#32) := by decide
theorem test_age_expired : answer (run 0x9000000200002AF9 busy) = some (.ok, 3#32) := by decide

/-- E15 and E16. -/
theorem test_tick :
    answer (run 0xA000000000002AF9 busy) = some (.ok, 4#32) ∧
    (after (run 0xA000000000002AF9 busy)).vessels.toList[2]? = some { live := false, last := 0#32 } := by decide
/-- E23: the age wraps. -/
theorem test_tick_wrap : answer (run 0xA000000000002711 (withSlot 10#16 4#8 0 0xFFFFF000#32)) = some (.ok, 1#32) := by
  decide
theorem test_rdslot : answer (run 0xB000000200000000 busy) = some (.ok, 0x3E8#32) := by decide
theorem test_rdslot_range : answer (run 0xB000002000000000 busy) = some (.errSlot, 0#32) := by decide

/-- 95_test_vectors.md section 3.3 P13. -/
theorem test_rdfifo :
    answer (run 0xC000000000000000 { State.reset with fifo := [entry 1#8] }) = some (.ok, 0x80212201#32) := by decide
theorem test_rdfifo_range : answer (run 0xC000000A00000000 busy) = some (.errSlot, 0#32) := by decide
theorem test_rdpr : answer (run 0xD000000000000000 (withPayload (bytes "15M") 2#3)) = some (.ok, 0x80020003#32) := by decide

/-- Section 3.3 P12 and P16: an eleventh id evicts the oldest entry, and a second fragment completes. -/
theorem test_accept :
    (accept (frag 2#4 1#4 10#8) fullFifo Payload.none).rstat = .newEvict ∧
    (accept (frag 2#4 2#4 2#8) fullFifo Payload.none).payload =
      { valid := true, fill := 2#3, buf := bytes "1020" } := by decide

/-- R7: one step of a block with other parameters. TICK at 745 evicts slot 7, whose age is
1001 modulo 2^16, and TOUCH refuses slot 8. -/
theorem test_other_parameters :
    (match stepFor { otherBlock with pending := [0xA0000000000002E9#64] } with
      | .next t => t.results.map fun r => (r.status, r.value)
      | _ => []) = [(.ok, 0x80#32)] ∧
    (match stepFor { otherBlock with pending := [0x8000000800000000#64] } with
      | .next t => t.results.map Result.status
      | _ => []) = [.errSlot] := by decide

/-! ## Witnesses: states and operands that meet the hypotheses of each statement, clause by clause -/

theorem busy_inv : busy.Inv where
  sentence :=
    { idle := by decide
      buffer := { bound := by decide, full := by decide, plain := by decide }
      legal :=
        { total_le := by decide, num_le := by decide, id_zero := by decide, pay_bound := by decide
          pay_plain := by decide, fill_le := by decide }
      notYet := fun _ => { total := by decide, num := by decide, idp := by decide, pay := by decide, fill := by decide }
      parsed := fun _ => { seven := by decide, total := by decide, num := by decide, idp := by decide, pay := by decide } }
  fifo :=
    { bound := by decide
      distinct := by decide
      entries := by
        intro e he
        obtain rfl | rfl : e = entry 3#8 ∨ e = entry 7#8 := by simpa [busy] using he
        · constructor <;> decide
        · constructor <;> decide }
  payload := { empty := by decide, nonempty := by decide, bound := by decide, fill_le := by decide }
  slots := show ∀ x ∈ busy.vessels.toList, x.live = false → x.last = 0#32 by decide
  listmax := by decide

/-- A state of the invariant whose next terminator closes a valid sentence. -/
theorem closing_inv : ({ busy with sentence := lastFragment } : State).Inv :=
  { busy_inv with
    sentence :=
      { idle := by decide
        buffer := { bound := by decide, full := by decide, plain := by decide }
        legal :=
          { total_le := by decide, num_le := by decide, id_zero := by decide, pay_bound := by decide
            pay_plain := by decide, fill_le := by decide }
        notYet := fun h => absurd h (by decide)
        parsed := fun _ =>
          { seven := by decide, total := by decide, num := by decide, idp := by decide, pay := by decide } } }

theorem witness_EveryStepKeepsInvariant : ∃ s t, s.Inv ∧ step s = .next t ∧ t.results ≠ [] :=
  ⟨busy, _, busy_inv, next_after _ (by decide), by decide⟩

theorem witness_DecodedWordsEncodeBack : ∃ w i, decodeWord w = .instr i ∧ w ≠ 0#64 :=
  ⟨0x8000001F00000064#64, .touch 31#8 100#32, by decide, by decide⟩

/-- Each clause of R89 at a word that breaks that clause alone. -/
theorem witness_IllegalWords :
    illegalByRule 0xE000000000000000#64 ∧ illegalByRule 0xF000000000000000#64 ∧
    illegalByRule 0x0000000000000001#64 ∧ illegalByRule 0x4000000000008000#64 ∧ illegalByRule 0x8000010000000000#64 ∧
    illegalByRule 0xA00000FF00000000#64 ∧ illegalByRule 0xB000000080000000#64 ∧ illegalByRule 0xC000000000000001#64 :=
  ⟨.inl (by decide), .inr (.inl (by decide)),
    .inr (.inr (.inl ⟨0, by simp [reservedBit], by decide⟩)),
    .inr (.inr (.inl ⟨15, by simp [reservedBit], by decide⟩)),
    .inr (.inr (.inl ⟨40, by simp [reservedBit], by decide⟩)),
    .inr (.inr (.inr (.inl (by decide)))), .inr (.inr (.inr (.inr (by decide)))),
    .inr (.inr (.inr (.inr (by decide))))⟩

theorem witness_LegalWord : ¬ illegalByRule 0xA000000000002AF9#64 := by
  rintro (h | h | ⟨k, hk, hw⟩ | h | h)
  · exact absurd h (by decide)
  · exact absurd h (by decide)
  · have h1 : 40 ≤ k ∧ k ≤ 59 := by simpa [reservedBit] using hk
    have h2 : ∀ k : Fin 60, 40 ≤ k.val → (0xA000000000002AF9#64).getLsbD k.val = false := by decide
    have h3 := h2 ⟨k, by omega⟩ h1.1
    rw [h3] at hw
    cases hw
  · exact absurd h (by decide)
  · exact absurd h (by decide)

theorem witness_IllegalWords_port : ∃ s : State, s.pending = 0xE000000000000000#64 :: [0#64] :=
  ⟨{ State.reset with pending := [0xE000000000000000#64, 0#64] }, rfl⟩

theorem witness_AssembledLines :
    (AsmLine.getu 4095 4095).fits = true ∧ (AsmLine.sent 0x24#8 (bytes "x")).fits = true ∧ (AsmLine.tick 4294967296).fits = false := by
  decide

/-- The last operand that fits each field and the first that does not, and both kinds of SENT marker. -/
theorem witness_AssembledLines_fields :
    (255 < 256 ∧ ¬ 256 < 256) ∧ (4095 < 4096 ∧ ¬ 4096 < 4096) ∧ (65535 < 65536 ∧ ¬ 65536 < 65536) ∧
    (4294967295 < 4294967296 ∧ ¬ 4294967296 < 4294967296) ∧ (0x24#8 = 0x21#8 ∨ (0x24#8 : Byte) = 0x24#8) ∧
    ¬ (0x41#8 = 0x21#8 ∨ (0x41#8 : Byte) = 0x24#8) := by decide

/-- R105 with R82 and R83: the largest operands that fit, and a word for each format. -/
theorem test_lines_at_their_limits :
    (AsmLine.decode 255).assemble = some [0x20000000000000FF#64] ∧
    (AsmLine.gets 4095 4095).assemble = some [0x500000000FFF0FFF#64] ∧
    (AsmLine.setcfg 65535 255).assemble = some [0x7000000000FFFFFF#64] ∧
    (AsmLine.age 255 4294967295).assemble = some [0x900000FFFFFFFFFF#64] := by decide

theorem witness_StepRunsDecodedCommand :
    busy.pending = 0#64 :: [] ∧ decodeWord 0#64 = .instr .nop ∧ State.reset.pending = [] := by decide

theorem witness_EachWordReturnsOneResult : busy.pending = 0#64 :: [] := by decide

/-- R294 on a refused SETCFG, and on a DECODE that closes a failed sentence. -/
theorem witness_ErrorsWriteNoState :
    (∃ t r, exec (.setcfg 0#16 33#8) busy = .next t ∧ t.results = busy.results ++ [r] ∧ r.status.isError = true) ∧
    (∃ t r, exec (.decode 0x0D#8) busy = .next t ∧ t.results = busy.results ++ [r] ∧ r.status.isError = true) :=
  ⟨⟨_, record .errRange 0#32 .none, next_after _ (by decide), by decide, by decide⟩,
    ⟨_, record .errFormat 0#32 .none, next_after _ (by decide), by decide, by decide⟩⟩

/-- R294 on an illegal word. -/
theorem witness_ErrorsWriteNoState_illegal :
    ({ busy with pending := [0xB000000000000001#64] } : State).pending = 0xB000000000000001#64 :: [] ∧
    decodeWord 0xB000000000000001#64 = .illegal .readTime := by decide

theorem witness_ReadsChangeNothing :
    (Instr.getc 0#12 6#12).readsOnly = true ∧ (∃ i, i = Instr.touch 31#8 7#32) ∧ ∃ i, i = Instr.setcfg 0#16 33#8 :=
  ⟨rfl, ⟨_, rfl⟩, ⟨_, rfl⟩⟩

theorem witness_OnlyListedCommandsWriteAGroup :
    ∃ t, exec (.age 31#8 0#32) busy = .next t ∧ (∀ c, Instr.age 31#8 0#32 ≠ .decode c) ∧ Instr.age 31#8 0#32 ≠ .reset ∧
      (∀ slot time, Instr.age 31#8 0#32 ≠ .touch slot time) ∧ (∀ now, Instr.age 31#8 0#32 ≠ .tick now) ∧
      ∀ timeout listmax, Instr.age 31#8 0#32 ≠ .setcfg timeout listmax :=
  ⟨_, next_after _ (by decide), by simp, by simp, by simp, by simp, by simp⟩

theorem witness_PortQueues : sameBlock busy { busy with pending := [], results := [record .ok 9#32 .none] } :=
  ⟨rfl, rfl, rfl, rfl, rfl⟩

/-- An entry with the longest buffer at position 0, no entry at position 9, and the two sides of FIFO_N. -/
theorem witness_RdfifoReturnsDescriptor :
    10 ≤ (10#8).toNat ∧ (9#8).toNat < 10 ∧ busy.fifo.length ≤ (9#8).toNat ∧
    ∃ e : Partial, [e][(0#8).toNat]? = some e ∧ e.buf.length = 576 :=
  ⟨by decide, by decide, by decide, { entry 1#8 with buf := List.replicate 576 0x30#8 }, rfl,
    List.length_replicate⟩

theorem witness_Setcfg : (32#8).toNat ≤ 32 ∧ 32 < (33#8).toNat := by decide

theorem witness_Touch :
    ((31#8).toNat < 32 ∧ (31#8).toNat < (withSlot 10#16 32#8 31 0#32).cfg.listmax.toNat) ∧ 32 ≤ (32#8).toNat ∧
    busy.cfg.listmax.toNat ≤ (4#8).toNat := by decide

theorem witness_Age : 32 ≤ (32#8).toNat ∧ busy.vessels[(2#8).toNat]? = some { live := true, last := 1000#32 } := by decide

/-- A live slot one millisecond past the timeout, and one exactly at it. -/
theorem witness_Tick :
    busy.vessels[2]? = some { live := true, last := 1000#32 } ∧ tooOld busy.cfg.timeout 11001#32 1000#32 ∧
    ¬ tooOld busy.cfg.timeout 11000#32 1000#32 :=
  ⟨by decide, by unfold tooOld; decide, by unfold tooOld; decide⟩

theorem witness_Rdslot :
    32 ≤ (32#8).toNat ∧ busy.vessels[(31#8).toNat]? = some { live := false, last := 0#32 } ∧ busy.Inv :=
  ⟨by decide, by decide, busy_inv⟩

theorem witness_TimeoutBoundary :
    (31#8).toNat < 32 ∧ (31#8).toNat < (withSlot 65535#16 32#8 31 0#32).cfg.listmax.toNat := by decide

/-- A live slot just below `cfg_listmax`, and a command that keeps or clears the limit. -/
theorem witness_LiveSlots :
    ∃ s : State, (∀ k x, s.vessels[k]? = some x → x.live = true → k < s.cfg.listmax.toNat) ∧
      s.vessels[31]? = some { live := true, last := 5#32 } ∧
      (∃ t, exec (.setcfg 7#16 32#8) s = .next t ∧ s.cfg.listmax.toNat ≤ t.cfg.listmax.toNat) ∧
      ∃ t, exec .reset s = .next t :=
  ⟨withSlot 10#16 32#8 31 5#32,
    fun k x hx _ => (Vector.getElem?_eq_some_iff.mp hx).1,
    by decide, ⟨_, next_after _ (by decide), by decide⟩, ⟨_, next_after _ (by decide)⟩⟩

/-- The ends of the armor bands and of the gaps. -/
theorem witness_C6 :
    (∀ c ∈ [0x30#8, 0x57#8], 0x30 ≤ c.toNat ∧ c.toNat ≤ 0x57) ∧ (∀ c ∈ [0x60#8, 0x77#8], 0x60 ≤ c.toNat ∧ c.toNat ≤ 0x77) ∧
    ∀ c ∈ [0x00#8, 0x2F#8, 0x58#8, 0x5F#8, 0x78#8, 0xFF#8], c.toNat < 0x30 ∨ 0x57 < c.toNat ∧ c.toNat < 0x60 ∨ 0x77 < c.toNat := by
  decide

theorem witness_TextAlphabet : (31#6).toNat < 32 ∧ 32 ≤ (32#6).toNat := by decide

theorem witness_StreamBits : (bytes "1w")[1]? = some 0x77#8 ∧ six 0x77#8 = some 63#6 ∧ 5 < 6 := by decide

/-- Widths 0 and 32, and a field that ends exactly at `bitlen` (95_test_vectors.md section 2.4). -/
theorem witness_Getu :
    readable fixture.payload 0#12 32#12 ∧ readable fixture.payload 136#12 168#12 ∧ readable fixture.payload 168#12 168#12 ∧
    (168#12).toNat - (136#12).toNat ≤ 32 := by
  simp only [readable]
  decide

/-- A field with its sign bit set and one without, and the empty field. -/
theorem witness_Gets :
    readable fixture.payload 5#12 6#12 ∧ readable fixture.payload 0#12 1#12 ∧ readable fixture.payload 4#12 4#12 ∧
    (6#12).toNat - (5#12).toNat ≤ 32 := by
  simp only [readable]
  decide

/-- Text of 20 characters and of none. -/
theorem witness_Getc :
    readable fixture.payload 0#12 120#12 ∧ (120#12).toNat - (0#12).toNat = 6 * 20 ∧ readable fixture.payload 0#12 0#12 ∧
    (0#12).toNat - (0#12).toNat = 6 * 0 := by
  simp only [readable]
  decide

/-- Each check of R205 failing first, and the three errors of one extraction in the form of `checkFails`. -/
theorem witness_ExtractionChecks :
    State.reset.payload.valid = false ∧
    ((withPayload (bytes "15MX") 0#3).payload.valid = true ∧ ∃ c ∈ (withPayload (bytes "15MX") 0#3).payload.buf, six c = none) ∧
    (fixture.payload.valid = true ∧ ∀ c ∈ fixture.payload.buf, six c ≠ none) ∧
    (9#12).toNat < (10#12).toNat ∧ 32 < (33#12).toNat - (0#12).toNat ∧ ((7#12).toNat - (0#12).toNat) % 6 ≠ 0 ∧
    20 < ((126#12).toNat - (0#12).toNat) / 6 ∧
    6 * fixture.payload.buf.length - fixture.payload.fill.toNat < (169#12).toNat ∧
    (168#12).toNat ≤ 6 * fixture.payload.buf.length - fixture.payload.fill.toNat := by decide

theorem witness_checkFails :
    checkFails State.reset.payload 10#12 9#12 True .errNoPayload ∧
    checkFails (withPayload (bytes "15MX") 0#3).payload 10#12 9#12 True .errArmor ∧
    checkFails fixture.payload 0#12 168#12 (32 < (168#12).toNat - (0#12).toNat) .errRange ∧
    checkFails fixture.payload 137#12 169#12 (32 < (169#12).toNat - (137#12).toNat) .errLength :=
  ⟨.inl (by decide), .inr (.inl (by decide)), .inr (.inr (.inl (by decide))), .inr (.inr (.inr (by decide)))⟩

theorem witness_Rdpr : ∃ s : State, s.payload.buf.length = 576 :=
  ⟨withPayload (List.replicate 576 0x30#8) 5#3, List.length_replicate⟩

theorem witness_StartMarkerRestarts : ∃ c : Byte, c = 0x24#8 ∨ c = 0x21#8 := ⟨0x21#8, by decide⟩

theorem witness_IdleIgnores : (0x0D#8 ≠ 0x24#8 ∧ 0x0D#8 ≠ 0x21#8) ∧ State.reset.sentence.fr.done = true := by decide

/-- Term buffers with one byte of room, and full. -/
theorem witness_Ordinary :
    bodyByte 0x00#8 ∧ (0x00#8 : Byte) ≠ 0x2C#8 ∧ busy.sentence.fr.done = false ∧
    ∃ t u : List Byte, t.length < 64 ∧ t.length + 1 = 64 ∧ (inBody 4#3 t 0#8 Staging.zero).sentence.fr.tbuf = t ∧
      64 ≤ u.length ∧ (inBody 4#3 u 0#8 Staging.zero).sentence.fr.tbuf = u :=
  ⟨by simp [bodyByte], by decide, by decide, List.replicate 63 0x30#8, List.replicate 64 0x30#8, by simp, by simp, rfl,
    by simp, rfl⟩

theorem witness_CommaAndStar :
    ((inField []).sentence.fr.done = false ∧ (inField []).sentence.fr.cks = true) ∧
    ((inBody 7#3 [] 0#8 Staging.zero).sentence.fr.done = false ∧ (inBody 7#3 [] 0#8 Staging.zero).sentence.fr.cks = false) ∧
    (inBody 6#3 (bytes "0") 0#8 Staging.zero).sentence.fr.cks = false := by decide

/-- A failed sentence, and a sentence not failed with an oversized term. -/
theorem witness_FirstFailure :
    (withCause .errHex lastFragment).fr.why ≠ .ok ∧
    ∃ s : Sentence, s.fr.why = .ok ∧ s.fr.tovf = true ∧ (1#3 : BitVec 3) ≠ 0#3 ∧ (1#3 : BitVec 3) ≠ 7#3 :=
  ⟨by decide, { lastFragment with fr := { lastFragment.fr with tovf := true } }, by decide, by decide, by decide, by decide⟩

/-- The ends of the range of every numeric term, and terms outside it. -/
theorem witness_Terms :
    lastFragment.fr.why = .ok ∧ lastFragment.fr.tovf = false ∧
    dec (bytes "1") = some 1 ∧ dec (bytes "009") = some 9 ∧ dec (bytes "0") = some 0 ∧ dec (bytes "10") = some 10 ∧
    dec (bytes "2") = some lastFragment.st.total.toNat ∧ dec (bytes "3") = some 3 ∧ dec (bytes "255") = some 255 ∧
    dec (bytes "256") = some 256 ∧ dec (bytes "+1") = none ∧ dec [] = none ∧
    (∃ c, bytes "5" = [c] ∧ 0x30 ≤ c.toNat ∧ c.toNat ≤ 0x35) ∧ (∃ c, bytes "6" = [c] ∧ 0x35 < c.toNat) :=
  ⟨by decide, by decide, by decide, by decide, by decide, by decide, by decide, by decide, by decide, by decide, by decide,
    by decide, ⟨0x35#8, by decide, by decide, by decide⟩, ⟨0x36#8, by decide, by decide⟩⟩

theorem witness_Decimal :
    (bytes "0019" ≠ [] ∧ ∀ c ∈ bytes "0019", 0x30 ≤ c.toNat ∧ c.toNat ≤ 0x39) ∧
    ∃ c ∈ bytes "1/", c.toNat < 0x30 ∨ 0x39 < c.toNat := by decide

/-- A sentence failed with each cause. -/
theorem witness_Terminator_causes :
    ∀ w ∈ [Cause.ignored, .errTerm, .errFormat, .errHex, .errChecksum],
      (withCause w lastFragment).fr.why = w ∧ (withCause w lastFragment).fr.done = false := by decide

/-- A failed sentence, a body without a star, a bad field, a wrong checksum and the right one. -/
theorem witness_Terminator :
    (inField (bytes "17")).sentence.fr.done = false ∧ (inField (bytes "17")).sentence.fr.why = .ok ∧
    (inField (bytes "17")).sentence.fr.cks = true ∧ (inField (bytes "17")).sentence.fr.tovf = false ∧
    hexField (bytes "17") (inField (bytes "17")).sentence.fr.acc.toNat ∧ hexField (bytes "00") 0 ∧
    0 ≠ (inField (bytes "00")).sentence.fr.acc.toNat ∧ (¬ ∃ n, hexField (bytes "5c") n) ∧
    (withCause .errTerm lastFragment).fr.why ≠ .ok ∧ (inBody 0#3 (bytes "GPGGA") 0#8 Staging.zero).sentence.fr.cks = false := by
  refine ⟨by decide, by decide, by decide, by decide, ⟨0x31#8, 0x37#8, 1, 7, by decide, by decide, by decide, by decide⟩,
    ⟨0x30#8, 0x30#8, 0, 0, by decide, by decide, by decide, by decide⟩, by decide, ?_, by decide, by decide⟩
  rintro ⟨n, a, b, x, y, h, -, hb, -⟩
  have hc : bytes "5c" = [0x35#8, 0x63#8] := by decide
  rw [hc] at h
  injection h with _ h
  injection h with h _
  subst h
  revert hb
  simp [hexDigit]

/-- A FRAGMENT close: the two statements about DECODE with hypotheses on its status. -/
theorem witness_ClosedFragment :
    ∃ s t r, s.Inv ∧ exec (.decode 0x0D#8) s = .next t ∧ t.results = s.results ++ [r] ∧ r.status = .fragment :=
  ⟨{ busy with sentence := lastFragment }, _, record .fragment 0#32 .complete, closing_inv, next_after _ (by decide),
    by decide, by decide⟩

theorem witness_DecodeFrame :
    (record .errFormat 0#32 .none).status ≠ .fragment ∧ ((0x41#8 : Byte) ≠ 0x0D#8 ∧ (0x41#8 : Byte) ≠ 0x0A#8) := by decide

theorem witness_DecodeDepends :
    busy.sentence = ({ busy with payload := Payload.none, cfg := Cfg.zero } : State).sentence ∧
    busy.fifo = ({ busy with payload := Payload.none, cfg := Cfg.zero } : State).fifo := ⟨rfl, rfl⟩

/-- The body of a valid sentence: the hypothesis of R143, R144 and R147. -/
theorem witness_Body : (0x21#8 = 0x24#8 ∨ (0x21#8 : Byte) = 0x21#8) ∧ ∀ c ∈ bytes "AIVDM,1,1,,A,1,0", bodyByte c := by
  decide

/-- Every hypothesis of R144 for a sentence fed from reset, with one byte of its body changed. -/
theorem witness_SingleByteChange :
    ∃ u v r, State.reset.sentence = resetSentence true ∧
      performAll ((0x21#8 :: (bytes "AIVDM,1,1,,A,1,0" ++ [0x2A#8, 0x31#8, 0x37#8, 0x0D#8])).map Instr.decode) State.reset =
        .next u ∧
      u.results.getLast? = some r ∧ r.status = .fragment ∧ 7 < (bytes "AIVDM,1,1,,A,1,0").length + 5 ∧
      (0x21#8 :: (bytes "AIVDM,1,1,,A,1,0" ++ [0x2A#8, 0x31#8, 0x37#8, 0x0D#8]))[7]? ≠ some 0x32#8 ∧
      performAll
          (((0x21#8 :: (bytes "AIVDM,1,1,,A,1,0" ++ [0x2A#8, 0x31#8, 0x37#8, 0x0D#8])).set 7 0x32#8 ++ [0x0A#8]).map
            Instr.decode) State.reset = .next v :=
  ⟨_, _, record .fragment 0#32 .single, rfl, next_after _ (by decide), by decide, by decide, by decide, by decide,
    next_after _ (by decide)⟩

theorem witness_SingleFragment : (frag 1#4 1#4 7#8).total = 1#4 := by decide

/-- A last fragment, and one that is not the last, behind an entry of another id. -/
theorem witness_InSequence :
    (frag 2#4 2#4 3#8).total ≠ 1#4 ∧ (∀ x ∈ [entry 1#8], x.id ≠ (frag 2#4 2#4 3#8).id) ∧
    (entry 3#8).id = (frag 2#4 2#4 3#8).id ∧ (frag 2#4 2#4 3#8).num = (entry 3#8).next ∧
    (frag 2#4 2#4 3#8).total = (entry 3#8).total ∧ (entry 3#8).cnt + 1#4 = (entry 3#8).total ∧
    ∃ e : Partial, e.id = (frag 9#4 2#4 3#8).id ∧ (frag 9#4 2#4 3#8).num = e.next ∧ (frag 9#4 2#4 3#8).total = e.total ∧
      e.cnt + 1#4 ≠ e.total :=
  ⟨by decide, by decide, by decide, by decide, by decide, by decide, { entry 3#8 with total := 9#4 }, by decide, by decide,
    by decide, by decide⟩

/-- Out of sequence by its number, and by its total. -/
theorem witness_OutOfSequence :
    ((frag 2#4 1#4 3#8).total ≠ 1#4 ∧ (entry 3#8).id = (frag 2#4 1#4 3#8).id ∧ (frag 2#4 1#4 3#8).num ≠ (entry 3#8).next) ∧
    ((frag 3#4 2#4 3#8).num = (entry 3#8).next ∧ (frag 3#4 2#4 3#8).total ≠ (entry 3#8).total) := by decide

/-- A FIFO with room for one more, and a full one. -/
theorem witness_NewMessage :
    (frag 2#4 2#4 10#8).total ≠ 1#4 ∧ (∀ x ∈ fullFifo, x.id ≠ (frag 2#4 2#4 10#8).id) ∧ fullFifo.length = 10 ∧
    fullFifo.tail.length ≠ 10 := by decide

/-- Two fragments and nine, a full FIFO. -/
theorem witness_InOrder :
    2 ≤ [bytes "10", bytes "20"].length ∧ (List.replicate 9 (bytes "10")).length ≤ 9 ∧ fullFifo.length ≤ 10 ∧
    ∀ x ∈ fullFifo, x.id ≠ 10#8 := by decide

/-- The entry that fragment 2 of an id allocated, behind another message. -/
theorem witness_LateStarted :
    ∃ e : Partial, FifoOk [entry 1#8, e] ∧ e ∈ [entry 1#8, e] ∧ e.cnt.toNat + 1 < e.next.toNat ∧ (frag 2#4 1#4 0#8).id = e.id ∧
      (frag 2#4 1#4 0#8).total ≠ 1#4 ∧ (frag 2#4 1#4 0#8).num.toNat ≤ (frag 2#4 1#4 0#8).total.toNat := by
  refine ⟨{ entry 0#8 with next := 3#4 }, ⟨by decide, by decide, ?_⟩, by simp, by decide, by decide, by decide, by decide⟩
  intro e he
  obtain rfl | rfl : e = entry 1#8 ∨ e = { entry 0#8 with next := 3#4 } := by simpa using he
  · constructor <;> decide
  · constructor <;> decide

/-- A block with other parameters than this hardware's: each side of each bound. -/
theorem witness_BoundsFollowTheParameters :
    otherParams.Legal ∧ otherParams ≠ hardware ∧ (bytes "25").length < otherParams.termCap ∧
      otherParams.termCap ≤ (bytes "255").length ∧
      lastFragment.fr.why = .ok ∧ dec (bytes "4") = some 4 ∧ 4 ≤ otherParams.maxTotal ∧ dec (bytes "5") = some 5 ∧
      otherParams.maxTotal < 5 ∧ 5 ≤ otherParams.idMax ∧ dec (bytes "10") = some 10 ∧ otherParams.idMax < 10 ∧
      (frag 2#4 2#4 10#8).total ≠ 1#4 ∧ (∀ x ∈ fullFifo, x.id ≠ (frag 2#4 2#4 10#8).id) ∧
      (fullFifo.take 3).length = otherParams.fifoN ∧ otherParams.wMax < (24#12).toNat - (0#12).toNat ∧
      (24#12).toNat - (0#12).toNat = 6 * 4 ∧ otherParams.strMax < 4 ∧ otherParams.vslots ≤ (8#8).toNat ∧
      ({ State.powerOn otherParams with pending := [0x1000000000000000#64] }).pending = 0x1000000000000000#64 :: [] ∧
      decodeWord 0x1000000000000000#64 = .instr .reset :=
  ⟨by constructor <;> decide, by decide⟩

theorem witness_BoundsFollowTheParameters_fields : readable fixture.payload 0#12 24#12 := by
  simp only [readable]
  decide

/-- The last slot below VSLOTS and `cfg_listmax` of that block, one millisecond past the timeout and exactly at it, and the
largest LISTMAX. -/
theorem witness_TimesFollowTheirWidths :
    otherParams.Legal ∧ (8#8).toNat ≤ otherParams.vslots ∧ (7#8).toNat < otherParams.vslots ∧
      (7#8).toNat < otherBlock.cfg.listmax.toNat ∧ otherBlock.vessels[(7#8).toNat]? = some { live := true, last := 0xFF00#16 } ∧
      tooOldFor otherParams otherBlock.cfg.timeout 745#32 0xFF00#16 ∧
      ¬ tooOldFor otherParams otherBlock.cfg.timeout 744#32 0xFF00#16 :=
  ⟨by constructor <;> decide, by decide, by decide, by decide, by decide, by unfold tooOldFor; decide,
    by unfold tooOldFor; decide⟩

theorem witness_OtherMessages : FifoOk busy.fifo := busy_inv.fifo

end Sys2Proof.Tests
end

section
/-! PROOFS. What each part of DECODE and ACCEPT can do, guards included, and one transaction by the kind of command. -/

namespace Sys2Proof.Machine

/-! ## The term parse steps (R131 to R138) -/

/-- All the parse step of term 1 can do (R133). -/
theorem term1_cases (s : Sentence) (p : Params) :
    (∃ n, dec s.fr.tbuf = some n ∧ 1 ≤ n ∧ n ≤ p.maxTotal ∧
      term1 s p = { s with st := { s.st with total := BitVec.ofNat 4 n } }) ∨
    ((∀ n, dec s.fr.tbuf = some n → ¬ (1 ≤ n ∧ n ≤ p.maxTotal)) ∧ term1 s p = s.fail .errTerm) := by
  unfold term1
  cases hd : dec s.fr.tbuf with
  | none => right; simp
  | some n =>
    by_cases hn : 1 ≤ n ∧ n ≤ p.maxTotal
    · left; exact ⟨n, rfl, hn.1, hn.2, if_pos hn⟩
    · right; exact ⟨fun m hm => by cases hm; exact hn, if_neg hn⟩

/-- All the parse step of term 2 can do (R134). -/
theorem term2_cases (s : Sentence) :
    (∃ n, dec s.fr.tbuf = some n ∧ 1 ≤ n ∧ n ≤ s.st.total.toNat ∧
      term2 s = { s with st := { s.st with num := BitVec.ofNat 4 n } }) ∨
    ((∀ n, dec s.fr.tbuf = some n → ¬ (1 ≤ n ∧ n ≤ s.st.total.toNat)) ∧ term2 s = s.fail .errTerm) := by
  unfold term2
  cases hd : dec s.fr.tbuf with
  | none => right; simp
  | some n =>
    by_cases hn : 1 ≤ n ∧ n ≤ s.st.total.toNat
    · left; exact ⟨n, rfl, hn.1, hn.2, if_pos hn⟩
    · right; exact ⟨fun m hm => by cases hm; exact hn, if_neg hn⟩

/-- The sentence whose term 3 was empty: it has no id (R135). -/
def Sentence.clearId (s : Sentence) : Sentence := { s with st := { s.st with idp := false, id := 0#8 } }

/-- All the parse step of term 3 can do (R135). -/
theorem term3_cases (s : Sentence) (p : Params) :
    (s.fr.tbuf = [] ∧ s.st.total.toNat ≤ 1 ∧ term3 s p = s.clearId) ∨
    (s.fr.tbuf = [] ∧ 1 < s.st.total.toNat ∧ term3 s p = s.clearId.fail .errTerm) ∨
    (s.fr.tbuf ≠ [] ∧ ∃ n, dec s.fr.tbuf = some n ∧ n ≤ p.idMax ∧
      term3 s p = { s with st := { s.st with idp := true, id := BitVec.ofNat 8 n } }) ∨
    (s.fr.tbuf ≠ [] ∧ (∀ n, dec s.fr.tbuf = some n → p.idMax < n) ∧ term3 s p = s.fail .errTerm) := by
  unfold term3
  by_cases ht : s.fr.tbuf = []
  · rw [if_pos ht]
    by_cases hn : s.st.total.toNat > 1
    · right; left; exact ⟨ht, hn, if_pos hn⟩
    · left; exact ⟨ht, not_lt.mp hn, if_neg hn⟩
  · rw [if_neg ht]
    right; right
    cases hd : dec s.fr.tbuf with
    | none => right; simp [ht]
    | some n =>
      by_cases hn : n ≤ p.idMax
      · left; exact ⟨ht, n, rfl, hn, if_pos hn⟩
      · right; exact ⟨ht, fun m hm => by cases hm; exact not_le.mp hn, if_neg hn⟩

/-- All the parse step of term 5 can do (R137). -/
theorem term5_cases (s : Sentence) :
    (s.fr.tbuf ≠ [] ∧ term5 s = { s with st := { s.st with pay := s.fr.tbuf } }) ∨
    (s.fr.tbuf = [] ∧ term5 s = s.fail .errTerm) := by
  unfold term5
  by_cases ht : s.fr.tbuf = []
  · right; exact ⟨ht, if_pos ht⟩
  · left; exact ⟨ht, if_neg ht⟩

/-- All the parse step of term 6 can do (R138). -/
theorem term6_cases (s : Sentence) :
    (∃ c n, s.fr.tbuf = [c] ∧ decDigit c = some n ∧ n ≤ Config.fillMax ∧
      term6 s = { s with st := { s.st with fill := BitVec.ofNat 3 n } }) ∨
    ((∀ c n, s.fr.tbuf = [c] → decDigit c = some n → Config.fillMax < n) ∧ term6 s = s.fail .errTerm) := by
  unfold term6
  match s.fr.tbuf with
  | [] => right; simp
  | _ :: _ :: _ => right; simp
  | [c] =>
    cases hd : decDigit c with
    | none => right; exact ⟨fun c' m hc hm => by cases hc; simp [hd] at hm, by simp only [hd]⟩
    | some n =>
      by_cases hn : n ≤ Config.fillMax
      · left; exact ⟨c, n, rfl, hd, hn, by simp only [hd, if_pos hn]⟩
      · right
        refine ⟨fun c' m hc hm => ?_, by simp only [hd, if_neg hn]⟩
        cases hc
        rw [hd] at hm
        cases hm
        exact not_le.mp hn

/-! ## The bytes of a sentence (R126, R127, R129) -/

/-- The sentence with the accumulator at `a` (R26). -/
def Sentence.setAcc (s : Sentence) (a : Byte) : Sentence := { s with fr := { s.fr with acc := a } }

@[simp] theorem Sentence.setAcc_st (s : Sentence) (a : Byte) : (s.setAcc a).st = s.st := rfl
@[simp] theorem Sentence.setAcc_done (s : Sentence) (a : Byte) : (s.setAcc a).fr.done = s.fr.done := rfl
@[simp] theorem Sentence.setAcc_cks (s : Sentence) (a : Byte) : (s.setAcc a).fr.cks = s.fr.cks := rfl
@[simp] theorem Sentence.setAcc_why (s : Sentence) (a : Byte) : (s.setAcc a).fr.why = s.fr.why := rfl
@[simp] theorem Sentence.setAcc_tidx (s : Sentence) (a : Byte) : (s.setAcc a).fr.tidx = s.fr.tidx := rfl

/-- The sentence at the start of term `k` (R127). -/
def Sentence.openTerm (s : Sentence) (k : BitVec 3) : Sentence := { s with fr := { s.fr.clearTerm with tidx := k } }

/-- The sentence at the start of its checksum section (R129). -/
def Sentence.openChecksum (s : Sentence) : Sentence := { s with fr := { s.fr.clearTerm with cks := true } }

@[simp] theorem Sentence.openTerm_tbuf (s : Sentence) (k : BitVec 3) : (s.openTerm k).fr.tbuf = [] := rfl
@[simp] theorem Sentence.openTerm_tovf (s : Sentence) (k : BitVec 3) : (s.openTerm k).fr.tovf = false := rfl
@[simp] theorem Sentence.openChecksum_tbuf (s : Sentence) : s.openChecksum.fr.tbuf = [] := rfl
@[simp] theorem Sentence.openChecksum_tovf (s : Sentence) : s.openChecksum.fr.tovf = false := rfl

/-- An ordinary byte is XORed in the body and offered to the term buffer in either section (R126). -/
theorem ordinary_eq (c : Byte) (s : Sentence) (p : Params) :
    ordinary c s p =
      { s with fr := ((s.setAcc (if s.fr.cks then s.fr.acc else s.fr.acc ^^^ c)).fr).pushByte c p } := by
  unfold ordinary
  cases hk : s.fr.cks with
  | true => rfl
  | false => rfl

section
variable {s : Sentence} {p : Params}

theorem comma_of_body (hc : s.fr.cks = false) :
    comma s p = (completeTerm s.fr.tidx (s.setAcc (s.fr.acc ^^^ 0x2C#8)) p).openTerm (nextTerm s.fr.tidx) := by
  simp [comma, hc, Sentence.openTerm, Sentence.setAcc]

theorem comma_of_checksum (hc : s.fr.cks = true) : comma s p = s.fail .errFormat := if_pos hc

theorem star_of_six (hc : s.fr.cks = false) (h6 : s.fr.tidx = 6#3) :
    star s p = (completeTerm s.fr.tidx s p).openChecksum := by
  simp [star, hc, h6, Sentence.openChecksum]

theorem star_of_other (hc : s.fr.cks = false) (h6 : s.fr.tidx ≠ 6#3) :
    star s p = ((completeTerm s.fr.tidx s p).fail .errFormat).openChecksum := by
  simp [star, hc, h6, Sentence.openChecksum]

theorem star_of_checksum (hc : s.fr.cks = true) : star s p = s.fail .errFormat := if_pos hc

end

/-! ## The close (R130, R140) -/

/-- The checksum check keeps the sentence or records a failure (R140, R141). -/
theorem checkChecksum_cases (s : Sentence) :
    checkChecksum s = s ∨ ∃ w, w ≠ Cause.ok ∧ checkChecksum s = s.fail w := by
  unfold checkChecksum
  split
  · exact .inr ⟨.errHex, by decide, rfl⟩
  · split
    · split
      · split
        · exact .inr ⟨.errChecksum, by decide, rfl⟩
        · exact .inl rfl
      all_goals exact .inr ⟨.errHex, by decide, rfl⟩
    all_goals exact .inr ⟨.errHex, by decide, rfl⟩

/-- Only a sentence in its checksum section with no failure passes the close, and it passes unchanged (R130). -/
theorem closeCheck_ok {s : Sentence} {p : Params} (h : (closeCheck s p).fr.why = .ok) :
    s.fr.cks = true ∧ s.fr.why = .ok ∧ closeCheck s p = s := by
  unfold closeCheck at h ⊢
  cases hc : s.fr.cks with
  | false =>
    rw [hc] at h
    exact absurd h (fail_why_ne_ok _ (by decide))
  | true =>
    rw [hc, if_pos rfl] at h
    rw [if_pos rfl]
    by_cases hw : s.fr.why = .ok
    · rw [if_pos hw] at h ⊢
      rcases checkChecksum_cases s with hs | ⟨w, hne, hs⟩
      · exact ⟨rfl, hw, hs⟩
      · rw [hs] at h; exact absurd h (fail_why_ne_ok s hne)
    · rw [if_neg hw] at h; exact absurd h hw

/-! ## DECODE by the class of its byte (R120 to R122) -/

section
variable {p : Params} {c : Byte} {s : State p}

theorem execDecode_start (hc : classify c = .start) : execDecode c s = framerStep s (sentenceReset false) := by
  simp [execDecode, hc]

theorem execDecode_idle (hc : classify c ≠ .start) (hd : s.sentence.fr.done = true) :
    execDecode c s = framerStep s s.sentence := by
  unfold execDecode
  cases hk : classify c with
  | start => exact absurd hk hc
  | ordinary | comma | star | terminator => exact if_pos hd

theorem execDecode_ordinary (hc : classify c = .ordinary) (hd : s.sentence.fr.done = false) :
    execDecode c s = framerStep s (ordinary c s.sentence p) := by
  simp [execDecode, hc, hd]

theorem execDecode_comma (hc : classify c = .comma) (hd : s.sentence.fr.done = false) :
    execDecode c s = framerStep s (comma s.sentence p) := by
  simp [execDecode, hc, hd]

theorem execDecode_star (hc : classify c = .star) (hd : s.sentence.fr.done = false) :
    execDecode c s = framerStep s (star s.sentence p) := by
  simp [execDecode, hc, hd]

theorem execDecode_terminator (hc : classify c = .terminator) (hd : s.sentence.fr.done = false) :
    execDecode c s = closeSentence s := by
  simp [execDecode, hc, hd]

theorem framerStep_eq (x : Sentence) :
    framerStep s x = .next (State.respond { s with sentence := x } (Result.ok 0#32 p)) := rfl

end

/-! ## ACCEPT (R171 to R178) -/

/-- All ACCEPT can do: bypass the FIFO, allocate, or meet the entry of its id. -/
theorem accept_cases (f : Fragment) (fifo : List Partial) (pr : Payload) (p : Params) :
    (f.total = 1#4 ∧ accept f fifo pr p = { fifo := fifo, payload := loadPr f.pay f.fill, rstat := .single }) ∨
    (f.total ≠ 1#4 ∧ (∀ x ∈ fifo, x.id ≠ f.id) ∧ accept f fifo pr p = acceptNew f fifo pr p) ∨
    (f.total ≠ 1#4 ∧ ∃ front e rest, fifo = front ++ e :: rest ∧ (∀ x ∈ front, x.id ≠ f.id) ∧ e.id = f.id ∧
      accept f fifo pr p = acceptMatch f front.length e fifo pr) := by
  by_cases ht : f.total = 1#4
  · left; exact ⟨ht, if_pos ht⟩
  · right
    rcases fifo_split f.id fifo with hn | ⟨front, e, rest, rfl, hf, he⟩
    · left; exact ⟨ht, hn, accept_of_new pr p ht hn⟩
    · right; exact ⟨ht, front, e, rest, rfl, hf, he, accept_of_match pr p ht hf he⟩

/-- All a fragment can do to the entry of its id: complete it, extend it in place, or discard it (R174 to R176). -/
theorem acceptMatch_cases (f : Fragment) (front rest : List Partial) (e : Partial) (pr : Payload) :
    (f.num = e.next ∧ f.total = e.total ∧ e.cnt + 1#4 = e.total ∧
      acceptMatch f front.length e (front ++ e :: rest) pr =
        { fifo := front ++ rest, payload := loadPr (e.buf ++ f.pay) f.fill, rstat := .complete }) ∨
    (f.num = e.next ∧ f.total = e.total ∧ e.cnt + 1#4 ≠ e.total ∧
      acceptMatch f front.length e (front ++ e :: rest) pr =
        { fifo := front ++ e.appendFragment f :: rest, payload := pr, rstat := .append }) ∨
    (¬ (f.num = e.next ∧ f.total = e.total) ∧
      acceptMatch f front.length e (front ++ e :: rest) pr =
        { fifo := front ++ rest, payload := pr, rstat := .discard }) := by
  unfold acceptMatch
  by_cases hm : f.num = e.next ∧ f.total = e.total
  · by_cases hc : e.cnt + 1#4 = e.total
    · left; simp [hm, hc, eraseIdx_split]
    · right; left; simp [hm, hc]
  · right; right; exact ⟨hm, by rw [if_neg hm, eraseIdx_split]⟩

/-! ## The commands that only read (R68) -/

/-- A command that only reads adds its result record and writes nothing else. -/
theorem exec_of_readsOnly {i : Instr} (h : i.readsOnly = true) (s : State) : ∃ r, exec i s = .next (s.respond r) := by
  cases i with
  | nop | rdpr | reservedE _ | reservedF _ => exact ⟨_, rfl⟩
  | c6 c =>
    simp only [exec, execC6]
    split <;> exact ⟨_, rfl⟩
  | getu lo hi | gets lo hi | getc lo hi =>
    rcases extract_cases (p := hardware) _ lo hi _ s with ⟨-, he⟩ | ⟨-, he⟩
    all_goals exact ⟨_, he⟩
  | age slot now =>
    simp only [exec, execAge]
    split <;> exact ⟨_, rfl⟩
  | rdslot slot =>
    simp only [exec, execRdslot]
    split <;> exact ⟨_, rfl⟩
  | rdfifo pos =>
    simp only [exec, execRdfifo]
    split
    · exact ⟨_, rfl⟩
    · split <;> exact ⟨_, rfl⟩
  | reset | decode _ | setcfg _ _ | touch _ _ | tick _ => cases h

end Sys2Proof.Machine
end

section
/-! PROOFS. The invariant of the sentence in progress. The staging registers are judged by how many terms are completed,
so that completing a term takes them from `n` terms to `n + 1` whichever register it writes. -/

namespace Sys2Proof.Machine

/-! ## The staging registers after `n` completed terms -/

/-- The registers of term `n` and later are 0 (R27 "not yet parsed"). -/
structure Staging.ZeroFrom (st : Staging) (n : Nat) : Prop where
  total : n ≤ 1 → st.total = 0#4
  num : n ≤ 2 → st.num = 0#4
  idp : n ≤ 3 → st.idp = false
  pay : n ≤ 5 → st.pay = []
  fill : n ≤ 5 → st.fill = 0#3

/-- The terms below `n` passed their parse steps (R133 to R137). -/
structure Staging.PassedBelow (st : Staging) (n : Nat) : Prop where
  total : 2 ≤ n → 1 ≤ st.total.toNat
  num : 3 ≤ n → 1 ≤ st.num.toNat
  idp : 4 ≤ n → 1 < st.total.toNat → st.idp = true
  pay : 6 ≤ n → st.pay ≠ []

/-- The staging registers are those of a sentence with `n` completed terms. -/
structure Sentence.Staged (s : Sentence) (n : Nat) : Prop where
  legal : s.st.Legal
  zero : s.st.ZeroFrom n
  passed : s.fr.why = .ok → s.st.PassedBelow n

theorem notYetParsed_iff (s : Sentence) : s.NotYetParsed ↔ s.st.ZeroFrom s.fr.tidx.toNat :=
  ⟨fun ⟨h1, h2, h3, h5, h6⟩ => ⟨h1, h2, h3, h5, h6⟩, fun ⟨h1, h2, h3, h5, h6⟩ => ⟨h1, h2, h3, h5, h6⟩⟩

theorem parsed_iff (s : Sentence) :
    s.Parsed ↔ (s.fr.cks = true → s.fr.tidx = 6#3) ∧ s.st.PassedBelow s.fr.tidx.toNat :=
  ⟨fun ⟨h7, h1, h2, h3, h5⟩ => ⟨h7, h1, h2, h3, h5⟩, fun ⟨h7, h1, h2, h3, h5⟩ => ⟨h7, h1, h2, h3, h5⟩⟩

theorem Staging.ZeroFrom.mono {st : Staging} {m n : Nat} (h : st.ZeroFrom m) (hmn : m ≤ n) : st.ZeroFrom n :=
  ⟨fun hn => h.total (hmn.trans hn), fun hn => h.num (hmn.trans hn), fun hn => h.idp (hmn.trans hn),
    fun hn => h.pay (hmn.trans hn), fun hn => h.fill (hmn.trans hn)⟩

theorem Staging.PassedBelow.anti {st : Staging} {m n : Nat} (h : st.PassedBelow m) (hnm : n ≤ m) : st.PassedBelow n :=
  ⟨fun hn => h.total (hn.trans hnm), fun hn => h.num (hn.trans hnm), fun hn => h.idp (hn.trans hnm),
    fun hn => h.pay (hn.trans hnm)⟩

/-- After six terms no staging register is left to be 0. -/
theorem Staging.zeroFrom_of_six_le (st : Staging) {n : Nat} (h : 6 ≤ n) : st.ZeroFrom n := by
  constructor <;> intro hn <;> omega

/-- A failure completes a term too: nothing is claimed of what a failed sentence parsed. -/
theorem Sentence.Staged.fail {s : Sentence} {m n : Nat} {w : Cause} (h : s.Staged m) (hmn : m ≤ n) (hw : w ≠ .ok) :
    (s.fail w).Staged n where
  legal := by simpa using h.legal
  zero := by simpa using h.zero.mono hmn
  passed hok := absurd hok (fail_why_ne_ok s hw)

theorem staged_sentenceReset (d : Bool) : (sentenceReset d).Staged 0 where
  legal := by constructor <;> simp
  zero := by constructor <;> simp
  passed _ := by constructor <;> simp

/-! ## Each parse step completes its term (R131 to R138) -/

theorem term0_staged {s : Sentence} (h : s.Staged 0) : (term0 s).Staged 1 := by
  unfold term0
  split
  · exact ⟨h.legal, h.zero.mono (by decide), fun _ => by constructor <;> simp⟩
  · exact h.fail (by decide) (by decide)

theorem term1_staged {s : Sentence} (h : s.Staged 1) : (term1 s).Staged 2 := by
  obtain ⟨n, -, hn1, hn9, heq⟩ | ⟨-, heq⟩ := term1_cases s hardware <;> rw [heq]
  · have htotal : (BitVec.ofNat 4 n).toNat = n := Nat.mod_eq_of_lt (by rw [hardware_maxTotal] at hn9; omega)
    have hnum : s.st.num = 0#4 := h.zero.num (by decide)
    exact
      { legal := { h.legal with total_le := htotal.le.trans hn9, num_le := by simp [hnum] }
        zero := { h.zero.mono (by decide : 1 ≤ 2) with total := by simp }
        passed := fun _ => by constructor <;> simp only [htotal] <;> omega }
  · exact h.fail (by decide) (by decide)

theorem term2_staged {s : Sentence} (h : s.Staged 2) : (term2 s).Staged 3 := by
  obtain ⟨n, -, hn1, hnt, heq⟩ | ⟨-, heq⟩ := term2_cases s <;> rw [heq]
  · have hnum : (BitVec.ofNat 4 n).toNat = n := Nat.mod_eq_of_lt (hnt.trans_lt s.st.total.isLt)
    exact
      { legal := { h.legal with num_le := hnum.le.trans hnt }
        zero := { h.zero.mono (by decide : 2 ≤ 3) with num := by simp }
        passed := fun _ => by constructor <;> simp only [hnum] <;> omega }
  · exact h.fail (by decide) (by decide)

theorem clearId_staged {s : Sentence} (h : s.Staged 3) : s.clearId.Staged 3 where
  legal := { h.legal with id_zero := fun _ => rfl }
  zero := { h.zero with idp := fun _ => rfl }
  passed hok := { h.passed hok with idp := by simp }

theorem term3_staged {s : Sentence} (h : s.Staged 3) : (term3 s).Staged 4 := by
  obtain ⟨-, ht, heq⟩ | ⟨-, -, heq⟩ | ⟨-, n, -, -, heq⟩ | ⟨-, -, heq⟩ := term3_cases s hardware <;> rw [heq]
  · have hc := clearId_staged h
    exact
      { legal := hc.legal
        zero := hc.zero.mono (by decide)
        passed := fun hok => by
          obtain ⟨htotal, hnum, -, -⟩ := h.passed hok
          exact ⟨fun _ => htotal (by decide), fun _ => hnum (by decide), fun _ hlt => absurd ht (not_le.mpr hlt), by simp⟩ }
  · exact (clearId_staged h).fail (by decide) (by decide)
  · exact
      { legal := { h.legal with id_zero := by simp }
        zero := { h.zero.mono (by decide : 3 ≤ 4) with idp := by simp }
        passed := fun hok => by
          obtain ⟨htotal, hnum, -, -⟩ := h.passed hok
          exact ⟨fun _ => htotal (by decide), fun _ => hnum (by decide), fun _ _ => rfl, by simp⟩ }
  · exact h.fail (by decide) (by decide)

theorem term4_staged {s : Sentence} (h : s.Staged 4) : (term4 s).Staged 5 where
  legal := h.legal
  zero := h.zero.mono (by decide)
  passed hok := by
    obtain ⟨htotal, hnum, hidp, -⟩ := h.passed hok
    exact ⟨fun _ => htotal (by decide), fun _ => hnum (by decide), fun _ => hidp (by decide), by simp [term4]⟩

theorem term5_staged {s : Sentence} (hb : s.fr.BufferOk) (h : s.Staged 5) : (term5 s).Staged 6 := by
  obtain ⟨hne, heq⟩ | ⟨-, heq⟩ := term5_cases s <;> rw [heq]
  · exact
      { legal := { h.legal with pay_bound := hb.bound, pay_plain := hb.plain }
        zero := Staging.zeroFrom_of_six_le _ le_rfl
        passed := fun hok => by
          obtain ⟨htotal, hnum, hidp, -⟩ := h.passed hok
          exact ⟨fun _ => htotal (by decide), fun _ => hnum (by decide), fun _ => hidp (by decide), fun _ => hne⟩ }
  · exact h.fail (by decide) (by decide)

theorem term6_staged {s : Sentence} (h : s.Staged 6) : (term6 s).Staged 7 := by
  obtain ⟨c, n, -, -, hn5, heq⟩ | ⟨-, heq⟩ := term6_cases s <;> rw [heq]
  · have hfill : (BitVec.ofNat 3 n).toNat = n := Nat.mod_eq_of_lt (by rw [Config.fillMax_eq] at hn5; omega)
    exact
      { legal := { h.legal with fill_le := hfill.le.trans hn5 }
        zero := Staging.zeroFrom_of_six_le _ (by decide)
        passed := fun hok => by
          obtain ⟨htotal, hnum, hidp, hpay⟩ := h.passed hok
          exact ⟨fun _ => htotal (by decide), fun _ => hnum (by decide), fun _ => hidp (by decide),
            fun _ => hpay (by decide)⟩ }
  · exact h.fail (by decide) (by decide)

/-- The parse step of term `k` takes the sentence from `k` completed terms to `k + 1`. -/
theorem termStep_staged {s : Sentence} {k : BitVec 3} (hb : s.fr.BufferOk) (h : s.Staged k.toNat) (h0 : k ≠ 0#3)
    (h7 : k ≠ 7#3) : (termStep k s).Staged (k.toNat + 1) := by
  have hk : ∀ k : BitVec 3, k ≠ 0#3 → k ≠ 7#3 →
      k = 1#3 ∨ k = 2#3 ∨ k = 3#3 ∨ k = 4#3 ∨ k = 5#3 ∨ k = 6#3 := by decide
  obtain rfl | rfl | rfl | rfl | rfl | rfl := hk k h0 h7
  · exact term1_staged h
  · exact term2_staged h
  · exact term3_staged h
  · exact term4_staged h
  · exact term5_staged hb h
  · exact term6_staged h

/-- Completing term `k` takes the sentence from `k` completed terms to `k + 1`, failed or not (R128, R139). -/
theorem completeTerm_staged {s : Sentence} {k : BitVec 3} (hb : s.fr.BufferOk) (h : s.Staged k.toNat) :
    (completeTerm k s).Staged (k.toNat + 1) := by
  unfold completeTerm
  by_cases hw : s.fr.why = .ok
  · rw [if_neg (not_not.mpr hw)]
    by_cases h0 : k = 0#3
    · subst h0; exact term0_staged h
    rw [if_neg h0]
    by_cases h7 : k = 7#3
    · rw [if_pos h7]; exact h.fail (Nat.le_succ _) (by decide)
    rw [if_neg h7]
    by_cases ho : s.fr.tovf = true
    · rw [if_pos ho]; exact h.fail (Nat.le_succ _) (by decide)
    · rw [if_neg ho]; exact termStep_staged hb h h0 h7
  · rw [if_pos hw]
    exact ⟨h.legal, h.zero.mono (Nat.le_succ _), fun hok => absurd hok hw⟩

/-! ## A sentence in its body and in its checksum section -/

theorem Sentence.Ok.staged {s : Sentence} (h : s.Ok) (hc : s.fr.cks = false) : s.Staged s.fr.tidx.toNat where
  legal := h.legal
  zero := (notYetParsed_iff s).mp (h.notYet hc)
  passed hok := ((parsed_iff s).mp (h.parsed hok)).2

/-- A sentence in its body with `fr_tidx` completed terms is legal. -/
theorem Sentence.Staged.ok_of_body {s : Sentence} (h : s.Staged s.fr.tidx.toNat) (hd : s.fr.done = false)
    (hc : s.fr.cks = false) (hb : s.fr.BufferOk) : s.Ok where
  idle hd' := by simp [hd] at hd'
  buffer := hb
  legal := h.legal
  notYet _ := (notYetParsed_iff s).mpr h.zero
  parsed hok := (parsed_iff s).mpr ⟨by simp [hc], h.passed hok⟩

/-- A sentence in its checksum section with seven completed terms, or a recorded failure, is legal. -/
theorem Sentence.Staged.ok_of_checksum {s : Sentence} {n : Nat} (h : s.Staged n) (hd : s.fr.done = false)
    (hc : s.fr.cks = true) (hb : s.fr.BufferOk) (h7 : s.fr.why = .ok → s.fr.tidx = 6#3 ∧ 6 ≤ n) : s.Ok where
  idle hd' := by simp [hd] at hd'
  buffer := hb
  legal := h.legal
  notYet hc' := by simp [hc] at hc'
  parsed hok := (parsed_iff s).mpr
    ⟨fun _ => (h7 hok).1, (h.passed hok).anti (by rw [(h7 hok).1]; exact (h7 hok).2)⟩

/-- A sentence in progress stays legal when its term buffer changes or a failure is recorded. -/
theorem Sentence.Ok.of_framer {s x : Sentence} (h : s.Ok) (hd : x.fr.done = false) (hb : x.fr.BufferOk)
    (hst : x.st = s.st) (hc : x.fr.cks = s.fr.cks) (ht : x.fr.tidx = s.fr.tidx)
    (hw : x.fr.why = .ok → s.fr.why = .ok) : x.Ok where
  idle hd' := by simp [hd] at hd'
  buffer := hb
  legal := hst ▸ h.legal
  notYet hc' := by
    rw [notYetParsed_iff, hst, ht, ← notYetParsed_iff]
    exact h.notYet (hc ▸ hc')
  parsed hok := by
    rw [parsed_iff, hst, ht, hc, ← parsed_iff]
    exact h.parsed (hw hok)

theorem Sentence.Ok.fail {s : Sentence} (h : s.Ok) (hd : s.fr.done = false) {w : Cause} (hw : w ≠ .ok) :
    (s.fail w).Ok :=
  h.of_framer (by simpa using hd)
    ⟨by simpa using h.buffer.bound, by simpa using h.buffer.full, by simpa using h.buffer.plain⟩
    (fail_st s w) (fail_cks s w) (fail_tidx s w) fun hok => absurd hok (fail_why_ne_ok s hw)

/-! ## The bytes of a sentence keep it legal (R121, R126, R127, R129) -/

theorem sentenceReset_ok (d : Bool) : (sentenceReset d).Ok where
  idle hd := by obtain rfl : d = true := hd; rfl
  buffer := bufferOk_cleared d
  legal := (staged_sentenceReset d).legal
  notYet _ := (notYetParsed_iff _).mpr (staged_sentenceReset d).zero
  parsed hok := (parsed_iff _).mpr ⟨by simp, (staged_sentenceReset d).passed hok⟩

theorem Sentence.Ok.setAcc {s : Sentence} (h : s.Ok) (hd : s.fr.done = false) (a : Byte) : (s.setAcc a).Ok :=
  h.of_framer hd ⟨h.buffer.bound, h.buffer.full, h.buffer.plain⟩ rfl rfl rfl id

theorem ordinary_ok {s : Sentence} (h : s.Ok) (hd : s.fr.done = false) {c : Byte} (hc : classify c = .ordinary) :
    (ordinary c s).Ok := by
  rw [ordinary_eq]
  exact h.of_framer (by simp [hd]) (bufferOk_pushByte (h.setAcc hd _).buffer hc) rfl (by simp) (by simp) (by simp)

/-- The index after a comma stands for one completed term more, or is 7 with no register left to be 0. -/
theorem Sentence.Staged.nextTerm {s : Sentence} {k : BitVec 3} (h : s.Staged (k.toNat + 1)) :
    s.Staged (nextTerm k).toNat := by
  have hk : ∀ k : BitVec 3, (Machine.nextTerm k).toNat = k.toNat + 1 ∨ (Machine.nextTerm k).toNat = 7 ∧ k.toNat = 7 := by
    decide
  rcases hk k with he | ⟨he, h7⟩
  · rwa [he]
  · exact ⟨h.legal, Staging.zeroFrom_of_six_le _ (by omega), fun hok => (h.passed hok).anti (by omega)⟩

theorem Sentence.Staged.openTerm_ok {s : Sentence} {k : BitVec 3} (h : s.Staged k.toNat) (hd : s.fr.done = false)
    (hc : s.fr.cks = false) : (s.openTerm k).Ok :=
  Sentence.Staged.ok_of_body ⟨h.legal, h.zero, h.passed⟩ hd hc ⟨by simp, by simp, by simp⟩

theorem Sentence.Staged.openChecksum_ok {s : Sentence} {n : Nat} (h : s.Staged n) (hd : s.fr.done = false)
    (h6 : s.fr.why = .ok → s.fr.tidx = 6#3 ∧ 6 ≤ n) : s.openChecksum.Ok :=
  Sentence.Staged.ok_of_checksum (n := n) ⟨h.legal, h.zero, h.passed⟩ hd rfl ⟨by simp, by simp, by simp⟩ h6

theorem comma_ok {s : Sentence} (h : s.Ok) (hd : s.fr.done = false) : (comma s).Ok := by
  cases hc : s.fr.cks with
  | true =>
    rw [comma_of_checksum hc]
    exact h.fail hd (by decide)
  | false =>
    rw [comma_of_body hc]
    have ha := h.setAcc hd (s.fr.acc ^^^ 0x2C#8)
    exact (completeTerm_staged ha.buffer (ha.staged hc)).nextTerm.openTerm_ok ((completeTerm_done ..).trans hd)
      ((completeTerm_cks ..).trans hc)

theorem star_ok {s : Sentence} (h : s.Ok) (hd : s.fr.done = false) : (star s).Ok := by
  cases hc : s.fr.cks with
  | true =>
    rw [star_of_checksum hc]
    exact h.fail hd (by decide)
  | false =>
    have hs := completeTerm_staged h.buffer (h.staged hc)
    by_cases h6 : s.fr.tidx = 6#3
    · rw [star_of_six hc h6]
      exact hs.openChecksum_ok (by simpa using hd) fun _ => ⟨by simpa using h6, by simp [h6]⟩
    · rw [star_of_other hc h6]
      exact (hs.fail le_rfl (by decide)).openChecksum_ok (by simpa using hd) fun hok =>
        absurd hok (fail_why_ne_ok _ (by decide))

end Sys2Proof.Machine
end

section
/-! PROOFS. The invariants of the reassembly FIFO and of the payload register, kept by ACCEPT of a well-formed fragment. -/

namespace Sys2Proof.Machine

/-! ## The fragment a close forms (R31, R142) -/

/-- The fragment of a valid sentence: positive and bounded numbers, a payload of 1 to TERM_CAP characters. -/
structure Fragment.Ok (f : Fragment) : Prop where
  total_le : f.total.toNat ≤ Config.maxTotal
  num_pos : 1 ≤ f.num.toNat
  num_le : f.num.toNat ≤ f.total.toNat
  pay_pos : 1 ≤ f.pay.length
  pay_le : f.pay.length ≤ Config.termCap
  fill_le : f.fill.toNat ≤ Config.fillMax

/-- A sentence that passes its close hands on a well-formed fragment (R142). -/
theorem closeCheck_fragment_ok {s : Sentence} (h : s.Ok) (hok : (closeCheck s).fr.why = .ok) :
    (closeCheck s).st.fragment.Ok := by
  obtain ⟨hc, hw, heq⟩ := closeCheck_ok hok
  obtain ⟨hseven, -, hnum, -, hpay⟩ := h.parsed hw
  have h6 : s.fr.tidx.toNat = 6 := congrArg BitVec.toNat (hseven hc)
  rw [heq]
  exact
    { total_le := h.legal.total_le
      num_pos := hnum (by omega)
      num_le := h.legal.num_le
      pay_pos := List.length_pos_iff.mpr (hpay (by omega))
      pay_le := h.legal.pay_bound
      fill_le := h.legal.fill_le }

/-- A fragment of a message of several fragments has a total of at least 2. -/
theorem Fragment.Ok.two_le_total {f : Fragment} (h : f.Ok) (ht : f.total ≠ 1#4) : 2 ≤ f.total.toNat := by
  have hne : f.total.toNat ≠ 1 := fun h1 => ht (BitVec.eq_of_toNat_eq h1)
  have := h.num_pos
  have := h.num_le
  omega

/-! ## FIFO entries (R33, R34) -/

/-- No counter of 4 bits wraps below a total of at most MAX_TOTAL. -/
theorem toNat_add_one_of_le {x : BitVec 4} (h : x.toNat ≤ Config.maxTotal) : (x + 1#4).toNat = x.toNat + 1 := by
  rw [Config.maxTotal_eq] at h
  rw [BitVec.toNat_add]
  exact Nat.mod_eq_of_lt (by simp; omega)

theorem Fragment.Ok.allocate_ok {f : Fragment} (h : f.Ok) (ht : f.total ≠ 1#4) : f.allocate.Ok := by
  have h2 := h.two_le_total ht
  have hnext := toNat_add_one_of_le (h.num_le.trans h.total_le)
  have hnum := h.num_pos
  exact
    { cnt_pos := le_rfl
      cnt_lt := h2
      total_le := h.total_le
      cnt_lt_next := by simp only [Fragment.allocate_next, hnext]; exact Nat.lt_succ_of_le hnum
      next_le := by simp only [Fragment.allocate_next, hnext]; exact Nat.succ_le_succ h.num_le
      blen_le := by simpa using h.pay_le
      cnt_le_blen := h.pay_pos }

/-- The counters and the length of an entry after the fragment expected next (R174). -/
theorem Partial.Ok.appendFragment_ok {e : Partial} {f : Fragment} (h : e.Ok) (hf : f.Ok) (hnum : f.num = e.next)
    (ht : f.total = e.total) (hc : e.cnt + 1#4 ≠ e.total) : (e.appendFragment f).Ok := by
  have hcnt := toNat_add_one_of_le (h.cnt_lt.le.trans h.total_le)
  have hnext := toNat_add_one_of_le (hnum ▸ hf.num_le.trans hf.total_le)
  have hne : e.cnt.toNat + 1 ≠ e.total.toNat := fun heq => hc (BitVec.eq_of_toNat_eq (hcnt.trans heq))
  have hle : e.next.toNat ≤ e.total.toNat := hnum ▸ ht ▸ hf.num_le
  have hlen : (e.appendFragment f).buf.length = e.buf.length + f.pay.length := List.length_append
  exact
    { cnt_pos := (Nat.le_add_left ..).trans hcnt.ge
      cnt_lt := hcnt ▸ lt_of_le_of_ne h.cnt_lt hne
      total_le := h.total_le
      cnt_lt_next := by simpa [hcnt, hnext] using h.cnt_lt_next
      next_le := by simpa [hnext] using hle
      blen_le := by
        rw [hlen, Partial.appendFragment_cnt, hcnt, Nat.succ_mul]
        exact Nat.add_le_add h.blen_le hf.pay_le
      cnt_le_blen := by
        rw [hlen, Partial.appendFragment_cnt, hcnt]
        exact Nat.add_le_add h.cnt_le_blen hf.pay_pos }

/-! ## The FIFO (R32, R34 (a)) -/

/-- Removing entries keeps the FIFO legal (R171 `remove`). -/
theorem FifoOk.sublist {fifo fifo' : List Partial} (h : FifoOk fifo) (hs : fifo'.Sublist fifo) : FifoOk fifo' where
  bound := hs.length_le.trans h.bound
  distinct := h.distinct.sublist (hs.map _)
  entries e he := h.entries e (hs.subset he)

theorem FifoOk.remove {front rest : List Partial} {e : Partial} (h : FifoOk (front ++ e :: rest)) :
    FifoOk (front ++ rest) :=
  h.sublist ((List.sublist_cons_self e rest).append_left front)

/-- An entry may give way to a legal entry of its id (R174). -/
theorem FifoOk.replace {front rest : List Partial} {e e' : Partial} (h : FifoOk (front ++ e :: rest))
    (hid : e'.id = e.id) (he' : e'.Ok) : FifoOk (front ++ e' :: rest) where
  bound := by simpa using h.bound
  distinct := by simpa [hid] using h.distinct
  entries x hx := by
    rcases List.mem_append.mp hx with hx | hx
    · exact h.entries x (by simp [hx])
    · rcases List.mem_cons.mp hx with rfl | hx
      · exact he'
      · exact h.entries x (by simp [hx])

/-- A FIFO with room takes a legal entry of a new id at its tail (R177). -/
theorem FifoOk.push {fifo : List Partial} {e : Partial} (h : FifoOk fifo) (hroom : fifo.length < Config.fifoN)
    (hid : ∀ x ∈ fifo, x.id ≠ e.id) (he : e.Ok) : FifoOk (fifo ++ [e]) where
  bound := by rw [List.length_append]; exact hroom
  distinct := by
    rw [List.map_append, List.map_singleton]
    refine List.Nodup.append h.distinct (List.nodup_singleton _) ?_
    simpa using hid
  entries x hx := by
    rcases List.mem_append.mp hx with hx | hx
    · exact h.entries x hx
    · exact List.mem_singleton.mp hx ▸ he

/-! ## The payload register (R35) -/

theorem payloadNone_ok : Payload.none.Ok := ⟨fun _ => rfl, by decide, by decide, by decide⟩

theorem loadPr_ok {buf : List Byte} {fill : BitVec 3} (hpos : 1 ≤ buf.length) (hle : buf.length ≤ Config.prCap)
    (hfill : fill.toNat ≤ Config.fillMax) : (loadPr buf fill).Ok :=
  ⟨by simp, fun _ => hpos, hle, hfill⟩

/-- A completed message fits the payload register: as many fragments as its total, each of at most TERM_CAP. -/
theorem Partial.Ok.complete_ok {e : Partial} {f : Fragment} (h : e.Ok) (hf : f.Ok) (hc : e.cnt + 1#4 = e.total) :
    (loadPr (e.buf ++ f.pay) f.fill).Ok := by
  have hcnt := hc ▸ toNat_add_one_of_le (h.cnt_lt.le.trans h.total_le)
  have hle : e.buf.length + f.pay.length ≤ e.total.toNat * Config.termCap := by
    rw [hcnt, Nat.succ_mul]
    exact Nat.add_le_add h.blen_le hf.pay_le
  refine loadPr_ok ?_ ?_ hf.fill_le <;> rw [List.length_append]
  · exact hf.pay_pos.trans (Nat.le_add_left ..)
  · exact hle.trans (Nat.mul_le_mul_right _ h.total_le)

/-! ## ACCEPT (R171 to R178) -/

/-- What ACCEPT leaves is legal. -/
structure Accepted.Ok (a : Accepted) : Prop where
  fifo : FifoOk a.fifo
  payload : a.payload.Ok

theorem acceptNew_ok {f : Fragment} {fifo : List Partial} {pr : Payload} (hf : f.Ok) (hfifo : FifoOk fifo)
    (hpr : pr.Ok) (ht : f.total ≠ 1#4) (hid : ∀ x ∈ fifo, x.id ≠ f.id) : (acceptNew f fifo pr).Ok := by
  have hbound := hfifo.bound
  have he := hf.allocate_ok ht
  unfold acceptNew
  by_cases hl : fifo.length = Config.fifoN
  · rw [if_pos hl]
    have hsub : (fifo.eraseIdx 0).Sublist fifo := List.eraseIdx_sublist ..
    have hroom : (fifo.eraseIdx 0).length < Config.fifoN := by
      rw [List.length_eraseIdx_of_lt (by simp [hl]), hl]; decide
    exact ⟨(hfifo.sublist hsub).push hroom (fun x hx => hid x (hsub.subset hx)) he, hpr⟩
  · rw [if_neg hl]
    exact ⟨hfifo.push (lt_of_le_of_ne hbound hl) hid he, hpr⟩

theorem acceptMatch_ok {f : Fragment} {front rest : List Partial} {e : Partial} {pr : Payload} (hf : f.Ok)
    (hfifo : FifoOk (front ++ e :: rest)) (hpr : pr.Ok) :
    (acceptMatch f front.length e (front ++ e :: rest) pr).Ok := by
  have he : e.Ok := hfifo.entries e (by simp)
  obtain ⟨-, -, hc, heq⟩ | ⟨hnum, ht, hc, heq⟩ | ⟨-, heq⟩ := acceptMatch_cases f front rest e pr <;> rw [heq]
  · exact ⟨hfifo.remove, he.complete_ok hf hc⟩
  · exact ⟨hfifo.replace (e.appendFragment_id f) (he.appendFragment_ok hf hnum ht hc), hpr⟩
  · exact ⟨hfifo.remove, hpr⟩

/-- ACCEPT of a well-formed fragment keeps the FIFO and the payload register legal. -/
theorem accept_ok {f : Fragment} {fifo : List Partial} {pr : Payload} (hf : f.Ok) (hfifo : FifoOk fifo) (hpr : pr.Ok) :
    (accept f fifo pr).Ok := by
  obtain ⟨-, heq⟩ | ⟨ht, hid, heq⟩ | ⟨-, front, e, rest, rfl, -, -, heq⟩ := accept_cases f fifo pr hardware <;> rw [heq]
  · exact ⟨hfifo, loadPr_ok hf.pay_pos (hf.pay_le.trans (by decide)) hf.fill_le⟩
  · exact acceptNew_ok hf hfifo hpr ht hid
  · exact acceptMatch_ok hf hfifo hpr

end Sys2Proof.Machine
end

section
/-! PROOFS. Every command keeps the invariant of the block, and so does every step. -/

namespace Sys2Proof.Machine

@[simp] theorem nextSatisfies_next (t : State) (P : State → Prop) : nextSatisfies (.next t) P = P t := rfl

/-- Returning a result keeps the invariant: it speaks of no queue of the port. -/
theorem State.Inv.respond {s : State} (h : s.Inv) (r : Result) : (s.respond r).Inv :=
  ⟨h.sentence, h.fifo, h.payload, h.slots, h.listmax⟩

theorem State.Inv.finish {s : State} (h : s.Inv) (r : Result) : nextSatisfies (finish s r) State.Inv := h.respond r

theorem State.Inv.setPending {s : State} (h : s.Inv) (ws : List CmdWord) : State.Inv { s with pending := ws } :=
  ⟨h.sentence, h.fifo, h.payload, h.slots, h.listmax⟩

theorem State.Inv.setSentence {s : State} (h : s.Inv) {x : Sentence} (hx : x.Ok) : State.Inv { s with sentence := x } :=
  ⟨hx, h.fifo, h.payload, h.slots, h.listmax⟩

theorem State.Inv.setVessels {s : State} (h : s.Inv) {v : Vector Slot hardware.vslots} (hv : ∀ x ∈ v.toList, x.Ok) :
    State.Inv { s with vessels := v } :=
  ⟨h.sentence, h.fifo, h.payload, hv, h.listmax⟩

theorem State.Inv.setCfg {s : State} (h : s.Inv) {c : Cfg} (hc : c.listmax.toNat ≤ Config.vslots) :
    State.Inv { s with cfg := c } :=
  ⟨h.sentence, h.fifo, h.payload, h.slots, hc⟩

/-- A close leaves what ACCEPT leaves and an idle framer (R130). -/
theorem State.Inv.setAccepted {s : State} (h : s.Inv) {a : Accepted} (ha : a.Ok) :
    State.Inv { s with sentence := sentenceReset true, fifo := a.fifo, payload := a.payload } :=
  ⟨sentenceReset_ok true, ha.fifo, ha.payload, h.slots, h.listmax⟩

/-! ## DECODE -/

theorem closeSentence_inv {s : State} (h : s.Inv) : nextSatisfies (closeSentence s) State.Inv := by
  obtain ⟨hok, heq⟩ | ⟨-, heq⟩ := closeSentence_cases s <;> rw [heq, nextSatisfies_next]
  · have ha := accept_ok (closeCheck_fragment_ok h.sentence hok) h.fifo h.payload
    exact (h.setAccepted ha).respond _
  · exact (h.setSentence (sentenceReset_ok true)).respond _

theorem execDecode_inv {s : State} (h : s.Inv) (c : Byte) : nextSatisfies (execDecode c s) State.Inv := by
  have hstep : ∀ {x : Sentence}, x.Ok → nextSatisfies (framerStep s x) State.Inv := fun hx => (h.setSentence hx).finish _
  by_cases hs : classify c = .start
  · rw [execDecode_start hs]; exact hstep (sentenceReset_ok false)
  cases hd : s.sentence.fr.done with
  | true => rw [execDecode_idle hs hd]; exact hstep h.sentence
  | false =>
    cases hc : classify c with
    | start => exact absurd hc hs
    | ordinary => rw [execDecode_ordinary hc hd]; exact hstep (ordinary_ok h.sentence hd hc)
    | comma => rw [execDecode_comma hc hd]; exact hstep (comma_ok h.sentence hd)
    | star => rw [execDecode_star hc hd]; exact hstep (star_ok h.sentence hd)
    | terminator => rw [execDecode_terminator hc hd]; exact closeSentence_inv h

/-! ## RESET, SETCFG, TOUCH and TICK -/

theorem slotFree_ok : (Slot.free : Slot).Ok := fun _ => rfl

theorem execReset_inv {s : State} : nextSatisfies (execReset s) State.Inv := by
  refine State.Inv.finish ⟨sentenceReset_ok true, ⟨by simp, by simp, by simp⟩, payloadNone_ok, ?_, by simp⟩ _
  intro x hx
  obtain rfl : x = Slot.free := by simpa using hx
  exact slotFree_ok

theorem execSetcfg_inv {s : State} (h : s.Inv) (timeout : BitVec 16) (listmax : BitVec 8) :
    nextSatisfies (execSetcfg timeout listmax s) State.Inv := by
  unfold execSetcfg
  by_cases hl : listmax.toNat > Config.vslots
  · rw [if_pos hl]; exact h.finish _
  · rw [if_neg hl]
    exact (h.setCfg (not_lt.mp hl)).finish _

theorem execTouch_inv {s : State} (h : s.Inv) (slot : BitVec 8) (t : BitVec 32) :
    nextSatisfies (execTouch slot t s) State.Inv := by
  unfold execTouch
  split
  · exact h.finish _
  · refine (h.setVessels fun x hx => ?_).finish _
    rw [Vector.toList_setIfInBounds] at hx
    rcases List.mem_or_eq_of_mem_set hx with hx | rfl
    · exact h.slots x hx
    · intro hlive; cases hlive

theorem execTick_inv {s : State} (h : s.Inv) (now : BitVec 32) : nextSatisfies (execTick now s) State.Inv := by
  refine (h.setVessels fun x hx => ?_).finish _
  rw [mapSlots_toList] at hx
  obtain ⟨y, hy, rfl⟩ := List.mem_map.mp hx
  rcases sweepSlot_cases s.cfg.timeout (stamp now) y with ⟨-, heq⟩ | ⟨-, heq⟩ <;> rw [heq]
  · exact slotFree_ok
  · exact h.slots y hy

/-! ## Every command and every step -/

/-- Every command goes on to a state of the invariant. -/
theorem exec_inv {s : State} (h : s.Inv) (i : Instr) : nextSatisfies (exec i s) State.Inv := by
  by_cases hr : i.readsOnly = true
  · obtain ⟨r, heq⟩ := exec_of_readsOnly hr s
    rw [heq]
    exact h.respond r
  cases i with
  | reset => exact execReset_inv
  | decode c => exact execDecode_inv h c
  | setcfg timeout listmax => exact execSetcfg_inv h timeout listmax
  | touch slot t => exact execTouch_inv h slot t
  | tick now => exact execTick_inv h now
  | nop | c6 _ | getu _ _ | gets _ _ | getc _ _ | age _ _ | rdslot _ | rdfifo _ | rdpr | reservedE _ | reservedF _ =>
    exact absurd rfl hr

/-- Every step goes on to a state of the invariant. -/
theorem step_inv {s : State} (h : s.Inv) : nextSatisfies (step s) State.Inv := by
  obtain ⟨-, heq⟩ | ⟨w, rest, -, ⟨i, -, heq⟩ | ⟨why, -, heq⟩⟩ := step_cases s <;> rw [heq]
  · exact h
  · exact exec_inv (h.setPending rest) i
  · exact (h.setPending rest).respond _

/-- Settles O3: by cases on what a step can do, each command that writes keeping the invariant of the groups it writes. -/
theorem everyStepKeepsInvariant : Obligations.EveryStepKeepsInvariant := by
  unfold Obligations.EveryStepKeepsInvariant
  intro s t h hstep
  have hnext := step_inv h
  rwa [hstep] at hnext

end Sys2Proof.Machine
end

section
/-! PROOFS. Legality of command words: the decoder's masks and field tests against the four clauses of R89, and what the
step does with an illegal word (R272). -/

namespace Sys2Proof

/-! ## The fields as numbers -/

theorem toNat_fieldOp (w : CmdWord) : (fieldOp w).toNat = w.toNat / 2 ^ 60 := by
  rw [fieldOp, BitVec.extractLsb'_toNat, Nat.shiftRight_eq_div_pow, Nat.mod_eq_of_lt]
  have := w.isLt
  omega

theorem toNat_fieldSlot (w : CmdWord) : (fieldSlot w).toNat = w.toNat / 2 ^ 32 % 2 ^ 8 := by
  rw [fieldSlot, BitVec.extractLsb'_toNat, Nat.shiftRight_eq_div_pow]

theorem toNat_fieldT (w : CmdWord) : (fieldT w).toNat = w.toNat % 2 ^ 32 := by
  rw [fieldT, BitVec.extractLsb'_toNat, Nat.shiftRight_zero]

/-! ## The words that decode to a named command -/

/-- The decoder's answer is one of the fourteen named commands. -/
def Decoded.isNamed : Decoded → Bool
  | .instr i => i.wellFormed
  | .illegal _ => false

theorem Decoded.isNamed_iff (d : Decoded) : d.isNamed = true ↔ ∃ i : Instr, i.wellFormed = true ∧ d = .instr i := by
  cases d <;> simp [isNamed]

theorem isNamed_decodeWith_iff {i : Instr} (hi : i.wellFormed = true) (mask w : CmdWord) :
    (decodeWith mask w i).isNamed = true ↔ w &&& mask = 0#64 := by
  by_cases hm : w &&& mask = 0#64 <;> simp [decodeWith, Decoded.isNamed, hi, hm]

theorem isNamed_decodeTick_iff (w : CmdWord) :
    (decodeTick w).isNamed = true ↔ w &&& reservedT = 0#64 ∧ fieldSlot w = 0#8 := by
  by_cases hm : w &&& reservedT = 0#64 <;> by_cases hs : fieldSlot w = 0#8 <;>
    simp [decodeTick, Decoded.isNamed, Instr.wellFormed, hm, hs]

theorem isNamed_decodeRead_iff {i : Instr} (hi : i.wellFormed = true) (w : CmdWord) :
    (decodeRead w i).isNamed = true ↔ w &&& reservedT = 0#64 ∧ fieldT w = 0#32 := by
  by_cases hm : w &&& reservedT = 0#64 <;> by_cases ht : fieldT w = 0#32 <;>
    simp [decodeRead, Decoded.isNamed, hi, hm, ht]

/-- The mask of the reserved bits in the format of the named opcode `op` (R82, R83). `getLsbD_reservedMask` ties
it to the bit ranges of the statement. -/
def reservedMask (op : Nat) : CmdWord :=
  if op ∈ [0x0, 0x1, 0xD] then reservedN
  else if op ∈ [0x2, 0x3] then reservedB
  else if op ∈ [0x4, 0x5, 0x6] then reservedX
  else if op = 0x7 then reservedG
  else reservedT

/-- The opcode map in one line: a named opcode, no reserved bit of its format, and the two field tests. -/
theorem isNamed_decodeWord_iff (w : CmdWord) :
    (decodeWord w).isNamed = true ↔
      (fieldOp w).toNat < 0xE ∧ w &&& reservedMask (fieldOp w).toNat = 0#64 ∧
      ((fieldOp w).toNat = 0xA → fieldSlot w = 0#8) ∧
      ((fieldOp w).toNat = 0xB ∨ (fieldOp w).toNat = 0xC → fieldT w = 0#32) := by
  have hlt := (fieldOp w).isLt
  unfold decodeWord
  split
  -- TICK, RDSLOT and RDFIFO test a second field.
  case h_11 hop =>
    rw [hop, isNamed_decodeTick_iff]
    simp [reservedMask]
  case h_12 hop | h_13 hop =>
    rw [hop, isNamed_decodeRead_iff rfl]
    simp [reservedMask]
  -- The two reserved opcodes name no command.
  case h_15 hop =>
    rw [hop]
    simp [Decoded.isNamed, Instr.wellFormed]
  case h_16 =>
    have hF : (fieldOp w).toNat = 0xF := by
      simp only [imp_false] at *
      omega
    rw [hF]
    simp [Decoded.isNamed, Instr.wellFormed]
  -- Every other opcode tests the reserved bits of its format alone.
  all_goals
    rename_i hop
    rw [hop, isNamed_decodeWith_iff rfl]
    simp [reservedMask]

end Sys2Proof

namespace Sys2Proof.Claims

/-! ## The decoder's tests against the clauses of R89 -/

/-- The mask of a named opcode holds the reserved bits of its format and no others. -/
theorem getLsbD_reservedMask {op k : Nat} (hop : op < 0xE) (hk : k < 64) :
    (reservedMask op).getLsbD k = true ↔ reservedBit op k := by
  interval_cases op <;>
    simp [reservedMask, reservedBit, getLsbD_reservedN, getLsbD_reservedB, getLsbD_reservedX, getLsbD_reservedT,
      getLsbD_reservedG, hk, -BitVec.getLsbD_eq_getElem]

theorem reservedBit_lt {op k : Nat} (h : reservedBit op k) : k < 64 := by
  unfold reservedBit at h
  omega

/-- A word of a named opcode passes the mask test exactly when it sets no reserved bit (R89 (b)). -/
theorem and_reservedMask_eq_zero_iff {op : Nat} (hop : op < 0xE) (w : CmdWord) :
    w &&& reservedMask op = 0#64 ↔ ¬ ∃ k, reservedBit op k ∧ w.getLsbD k = true := by
  rw [and_eq_zero_iff]
  constructor
  · rintro h ⟨k, hk, hw⟩
    have hclear := h k (reservedBit_lt hk) ((getLsbD_reservedMask hop (reservedBit_lt hk)).2 hk)
    simp [hclear] at hw
  · intro h k hk hm
    exact Bool.eq_false_iff.2 fun hw => h ⟨k, (getLsbD_reservedMask hop hk).1 hm, hw⟩

/-- The decoder names a command exactly for the words that break no clause of R89. -/
theorem isNamed_decodeWord_iff_legal (w : CmdWord) : (decodeWord w).isNamed = true ↔ ¬ illegalByRule w := by
  have hlt := (fieldOp w).isLt
  rw [isNamed_decodeWord_iff, illegalByRule, ← toNat_fieldOp, ← toNat_fieldSlot, ← toNat_fieldT]
  by_cases hop : (fieldOp w).toNat < 0xE
  · rw [and_reservedMask_eq_zero_iff hop]
    have hE : (fieldOp w).toNat ≠ 0xE := by omega
    have hF : (fieldOp w).toNat ≠ 0xF := by omega
    simp [hop, hE, hF, BitVec.toNat_eq]
  · have hEF : (fieldOp w).toNat = 0xE ∨ (fieldOp w).toNat = 0xF := by omega
    tauto

end Sys2Proof.Claims

namespace Sys2Proof.Machine
open Sys2Proof.Claims

/-! ## The step at the word on the port -/

section
variable {s : State} {w : CmdWord} {rest : List CmdWord} (hp : s.pending = w :: rest)
include hp

theorem step_of_instr {i : Instr} (hd : decodeWord w = .instr i) : step s = exec i { s with pending := rest } := by
  simp [step, transact, takeWord_of_pending_cons hp, hd]

theorem step_of_illegal {why : Illegal} (hd : decodeWord w = .illegal why) :
    step s = illegalWord { s with pending := rest } := by
  simp [step, transact, takeWord_of_pending_cons hp, hd]

end

/-- A reserved opcode executes as an illegal word (R89 (a), R272). -/
theorem exec_of_not_wellFormed {i : Instr} (h : i.wellFormed = false) (s : State) : exec i s = illegalWord s := by
  cases i with
  | reservedE _ | reservedF _ => rfl
  | nop | reset | decode _ | c6 _ | getu _ _ | gets _ _ | getc _ _ | setcfg _ _ | touch _ _ | age _ _ | tick _ | rdslot _
  | rdfifo _ | rdpr => cases h

/-- Every word that names no command is answered as an illegal word. -/
theorem step_of_not_isNamed {s : State} {w : CmdWord} {rest : List CmdWord} (hp : s.pending = w :: rest)
    (hn : (decodeWord w).isNamed = false) : step s = illegalWord { s with pending := rest } := by
  cases hd : decodeWord w with
  | instr i =>
    rw [hd] at hn
    rw [step_of_instr hp hd, exec_of_not_wellFormed hn]
  | illegal why => exact step_of_illegal hp hd

/-- Settles O7: the decoder names a command exactly for the legal words, and the step answers all others ERR_OPCODE. -/
theorem illegalWordsReturnErrOpcode : Obligations.IllegalWordsReturnErrOpcode := by
  unfold Obligations.IllegalWordsReturnErrOpcode
  intro s w rest hp
  constructor
  · intro hill
    have hn : (decodeWord w).isNamed = false :=
      Bool.eq_false_iff.2 fun h => (isNamed_decodeWord_iff_legal w).1 h hill
    exact step_of_not_isNamed hp hn
  · intro hlegal
    obtain ⟨i, hi, hd⟩ := (Decoded.isNamed_iff _).1 ((isNamed_decodeWord_iff_legal w).2 hlegal)
    exact ⟨i, hi, hd, step_of_instr hp hd⟩

end Sys2Proof.Machine
end

section
/-! PROOFS. How the block reads one byte and one term: the byte classes, the digits and the value of a decimal term. -/

namespace Sys2Proof.Machine
open Sys2Proof.Claims

/-! ## The byte classes (R100) -/

section
variable {c : Byte}

theorem classify_of_start (h : c = 0x24#8 ∨ c = 0x21#8) : classify c = .start := if_pos h

theorem classify_of_terminator (h : c = 0x0D#8 ∨ c = 0x0A#8) : classify c = .terminator := by
  obtain rfl | rfl := h <;> rfl

theorem classify_of_ordinary (hb : bodyByte c) (hc : c ≠ 0x2C#8) : classify c = .ordinary := by
  obtain ⟨hdollar, hbang, hstar, hcr, hlf⟩ := hb
  simp [classify, *]

theorem classify_ne_start (hdollar : c ≠ 0x24#8) (hbang : c ≠ 0x21#8) : classify c ≠ .start := by
  unfold classify
  rw [if_neg (not_or.mpr ⟨hdollar, hbang⟩)]
  split_ifs <;> decide

end

/-! ## Digits (R132, R140) -/

theorem decDigit_of_digit {c : Byte} (h : 0x30 ≤ c.toNat ∧ c.toNat ≤ 0x39) : decDigit c = some (c.toNat - 0x30) :=
  if_pos h

theorem decDigit_of_not_digit {c : Byte} (h : c.toNat < 0x30 ∨ 0x39 < c.toNat) : decDigit c = none :=
  if_neg (by omega)

theorem decDigit_eq_some_iff {c : Byte} {n : Nat} : decDigit c = some n ↔ n ≤ 9 ∧ c.toNat = 0x30 + n := by
  unfold decDigit
  split_ifs with h
  · rw [Option.some_inj]; omega
  · simp only [false_iff]; omega

theorem hexDigit_eq_some_iff {c : Byte} {n : Nat} :
    hexDigit c = some n ↔ (n ≤ 9 ∧ c.toNat = 0x30 + n ∨ 10 ≤ n ∧ n ≤ 15 ∧ c.toNat + 10 = 0x41 + n) := by
  unfold hexDigit
  split_ifs with hdec hletter
  · rw [Option.some_inj]; omega
  · rw [Option.some_inj]; omega
  · simp only [false_iff]; omega

/-! ## Decimal terms (R132) -/

/-- The place-value sum of a run of digit bytes, first byte most significant. -/
def placeValue (t : List Byte) : Nat :=
  ∑ i ∈ Finset.range t.length, ((t.getD i 0#8).toNat - 0x30) * 10 ^ (t.length - 1 - i)

/-- The first digit weighs ten for each digit behind it. -/
theorem placeValue_cons (c : Byte) (t : List Byte) :
    placeValue (c :: t) = (c.toNat - 0x30) * 10 ^ t.length + placeValue t := by
  rw [placeValue, List.length_cons, Finset.sum_range_succ', Nat.add_comm, placeValue, Nat.add_sub_cancel]
  congr 1
  refine Finset.sum_congr rfl fun i _ => ?_
  rw [List.getD_cons_succ, Nat.sub_sub, Nat.add_comm 1 i]

/-- Reading digits after the number `n` shifts `n` past all of them. -/
theorem decFrom_of_digits {t : List Byte} (h : ∀ c ∈ t, 0x30 ≤ c.toNat ∧ c.toNat ≤ 0x39) (n : Nat) :
    decFrom n t = some (n * 10 ^ t.length + placeValue t) := by
  induction t generalizing n with
  | nil => simp [decFrom, placeValue]
  | cons c t ih =>
    obtain ⟨hc, ht⟩ := List.forall_mem_cons.mp h
    rw [decFrom, decDigit_of_digit hc]
    simp only [ih ht, placeValue_cons, List.length_cons]
    congr 1
    ring

theorem decFrom_of_not_digit {t : List Byte} (h : ∃ c ∈ t, c.toNat < 0x30 ∨ 0x39 < c.toNat) (n : Nat) :
    decFrom n t = none := by
  induction t generalizing n with
  | nil => simp at h
  | cons c t ih =>
    rw [decFrom]
    cases hd : decDigit c with
    | none => rfl
    | some d =>
      obtain hc | ht := (List.exists_mem_cons_iff ..).mp h
      · simp [decDigit_of_not_digit hc] at hd
      · exact ih ht _

/-- Settles O44, by induction over the term: the digits read before a byte weigh ten times more after it. -/
theorem decimalTermsHaveTheirPlaceValue : Obligations.DecimalTermsHaveTheirPlaceValue := by
  unfold Obligations.DecimalTermsHaveTheirPlaceValue
  intro t
  cases t with
  | nil => exact ⟨fun hne => absurd rfl hne, fun _ => rfl⟩
  | cons c t =>
    constructor
    · intro _ hdigits
      have hval := decFrom_of_digits hdigits 0
      rwa [Nat.zero_mul, Nat.zero_add] at hval
    · intro h
      exact decFrom_of_not_digit (h.resolve_left (by simp)) 0

end Sys2Proof.Machine
end

section
/-! PROOFS. Completing a term: which parse step runs, when it passes, and what it writes. -/

namespace Sys2Proof.Machine
open Sys2Proof.Claims

/-! ## Which parse step runs (R128, R139) -/

section
variable {s : Sentence} {k : BitVec 3} (p : Params) (hok : s.fr.why = .ok)
include hok

theorem completeTerm_zero : completeTerm 0#3 s p = term0 s := by
  simp [completeTerm, hok]

/-- An eighth term is a format failure. -/
theorem completeTerm_seven : completeTerm 7#3 s p = withCause .errFormat s := by
  simp [completeTerm, hok, fail_of_ok]

/-- An oversized term 1 to 6 is a bad term, unparsed. -/
theorem completeTerm_of_oversized (hovf : s.fr.tovf = true) (h0 : k ≠ 0#3) (h7 : k ≠ 7#3) :
    completeTerm k s p = withCause .errTerm s := by
  simp [completeTerm, hok, hovf, h0, h7, fail_of_ok]

theorem completeTerm_of_fits (hovf : s.fr.tovf = false) (h0 : k ≠ 0#3) (h7 : k ≠ 7#3) :
    completeTerm k s p = termStep k s p := by
  simp [completeTerm, hok, hovf, h0, h7]

end

/-! ## Each parse step by its term (R131 to R138) -/

section
variable {s : Sentence} (p : Params) {n : Nat}

theorem term0_of_ok (hok : s.fr.why = .ok) :
    term0 s = if s.fr.tovf = false ∧ s.fr.tbuf = aivdm then s else withCause .ignored s := by
  rw [term0, fail_of_ok _ hok]

theorem term1_of_pass (hd : dec s.fr.tbuf = some n) (h1 : 1 ≤ n) (hn : n ≤ p.maxTotal) :
    term1 s p = { s with st := { s.st with total := BitVec.ofNat 4 n } } := by
  obtain ⟨m, hm, -, -, heq⟩ | ⟨hfail, -⟩ := term1_cases s p
  · rwa [Option.some_inj.mp (hd.symm.trans hm)]
  · exact absurd ⟨h1, hn⟩ (hfail n hd)

theorem term1_of_fail (h : ∀ n, dec s.fr.tbuf = some n → n = 0 ∨ p.maxTotal < n) : term1 s p = s.fail .errTerm := by
  obtain ⟨n, hd, h1, hn, -⟩ | ⟨-, heq⟩ := term1_cases s p
  · have := h n hd; omega
  · exact heq

theorem term2_of_pass (hd : dec s.fr.tbuf = some n) (h1 : 1 ≤ n) (hn : n ≤ s.st.total.toNat) :
    term2 s = { s with st := { s.st with num := BitVec.ofNat 4 n } } := by
  obtain ⟨m, hm, -, -, heq⟩ | ⟨hfail, -⟩ := term2_cases s
  · rwa [Option.some_inj.mp (hd.symm.trans hm)]
  · exact absurd ⟨h1, hn⟩ (hfail n hd)

theorem term2_of_fail (h : ∀ n, dec s.fr.tbuf = some n → n = 0 ∨ s.st.total.toNat < n) :
    term2 s = s.fail .errTerm := by
  obtain ⟨n, hd, h1, hn, -⟩ | ⟨-, heq⟩ := term2_cases s
  · have := h n hd; omega
  · exact heq

/-- An empty term 3 clears the id, and fails the sentence only when it has more than one fragment. -/
theorem term3_of_empty (hok : s.fr.why = .ok) (ht : s.fr.tbuf = []) :
    term3 s p = withCause (if 1 < s.st.total.toNat then .errTerm else .ok) s.clearId := by
  obtain ⟨-, hle, heq⟩ | ⟨-, hlt, heq⟩ | ⟨hne, -⟩ | ⟨hne, -⟩ := term3_cases s p
  · rw [heq, if_neg (not_lt.mpr hle), ← hok]; rfl
  · rw [heq, if_pos hlt]; exact fail_of_ok .errTerm hok
  · exact absurd ht hne
  · exact absurd ht hne

theorem ne_nil_of_dec_eq_some {t : List Byte} (hd : dec t = some n) : t ≠ [] := by
  rintro rfl; simp [dec] at hd

theorem term3_of_pass (hd : dec s.fr.tbuf = some n) (hn : n ≤ p.idMax) :
    term3 s p = { s with st := { s.st with idp := true, id := BitVec.ofNat 8 n } } := by
  obtain ⟨ht, -⟩ | ⟨ht, -⟩ | ⟨-, m, hm, -, heq⟩ | ⟨-, hfail, -⟩ := term3_cases s p
  · exact absurd ht (ne_nil_of_dec_eq_some hd)
  · exact absurd ht (ne_nil_of_dec_eq_some hd)
  · rwa [Option.some_inj.mp (hd.symm.trans hm)]
  · exact absurd hn (not_le.mpr (hfail n hd))

theorem term3_of_fail (hne : s.fr.tbuf ≠ []) (h : ∀ n, dec s.fr.tbuf = some n → p.idMax < n) :
    term3 s p = s.fail .errTerm := by
  obtain ⟨ht, -⟩ | ⟨ht, -⟩ | ⟨-, n, hd, hn, -⟩ | ⟨-, -, heq⟩ := term3_cases s p
  · exact absurd ht hne
  · exact absurd ht hne
  · exact absurd hn (not_le.mpr (h n hd))
  · exact heq

theorem term5_of_ok (hok : s.fr.why = .ok) :
    term5 s = if s.fr.tbuf = [] then withCause .errTerm s else { s with st := { s.st with pay := s.fr.tbuf } } := by
  rw [term5, fail_of_ok _ hok]

theorem term6_of_pass {c : Byte} (ht : s.fr.tbuf = [c]) (h0 : 0x30 ≤ c.toNat) (h5 : c.toNat ≤ 0x35) :
    term6 s = { s with st := { s.st with fill := BitVec.ofNat 3 (c.toNat - 0x30) } } := by
  have hd : decDigit c = some (c.toNat - 0x30) := decDigit_of_digit ⟨h0, by omega⟩
  obtain ⟨c', n, ht', hn, -, heq⟩ | ⟨hfail, -⟩ := term6_cases s
  · obtain rfl : c = c' := List.singleton_inj.mp (ht.symm.trans ht')
    rwa [Option.some_inj.mp (hd.symm.trans hn)]
  · have := hfail c _ ht hd
    rw [Config.fillMax_eq] at this
    omega

theorem term6_of_fail (h : ∀ c, s.fr.tbuf = [c] → c.toNat < 0x30 ∨ 0x35 < c.toNat) : term6 s = s.fail .errTerm := by
  obtain ⟨c, n, ht, hd, hn, -⟩ | ⟨-, heq⟩ := term6_cases s
  · have hc := h c ht
    have hval := (decDigit_eq_some_iff.mp hd).2
    rw [Config.fillMax_eq] at hn
    omega
  · exact heq

end

/-- Settles O42: the failure cause is written once, and completing a term judges it only in a sentence not failed. -/
theorem firstFailureIsKept : Obligations.FirstFailureIsKept := by
  unfold Obligations.FirstFailureIsKept
  intro s k why
  constructor
  · intro hfailed
    exact ⟨fail_of_failed why hfailed, completeTerm_of_failed k hardware hfailed⟩
  · intro hok
    refine ⟨fail_of_ok why hok, ?_, ?_, completeTerm_of_oversized hardware hok⟩
    · rintro rfl
      exact completeTerm_seven hardware hok
    · rintro hovf rfl
      rw [completeTerm_zero hardware hok, term0_of_ok hok]
      exact if_neg fun h => by simp [hovf] at h

/-- Settles O43: each index of `complete_term` runs its own parse step, and each parse step passes or fails by its term. -/
theorem termsParseIntoStaging : Obligations.TermsParseIntoStaging := by
  unfold Obligations.TermsParseIntoStaging
  refine ⟨fun s hok => (completeTerm_zero hardware hok).trans (term0_of_ok hok), fun s hok hovf => ?_⟩
  have hfail : s.fail .errTerm = withCause .errTerm s := fail_of_ok .errTerm hok
  have hstep {k : BitVec 3} (h0 : k ≠ 0#3) (h7 : k ≠ 7#3) : completeTerm k s = termStep k s :=
    completeTerm_of_fits hardware hok hovf h0 h7
  have h1 : completeTerm 1#3 s = term1 s := hstep (by decide) (by decide)
  have h2 : completeTerm 2#3 s = term2 s := hstep (by decide) (by decide)
  have h3 : completeTerm 3#3 s = term3 s := hstep (by decide) (by decide)
  have h4 : completeTerm 4#3 s = term4 s := hstep (by decide) (by decide)
  have h5 : completeTerm 5#3 s = term5 s := hstep (by decide) (by decide)
  have h6 : completeTerm 6#3 s = term6 s := hstep (by decide) (by decide)
  rw [h1, h2, h3, h4, h5, h6, ← hfail]
  exact ⟨fun _ => term1_of_pass hardware, term1_of_fail hardware, fun _ => term2_of_pass, term2_of_fail,
    term3_of_empty hardware hok, fun _ => term3_of_pass hardware, term3_of_fail hardware, rfl, hfail ▸ term5_of_ok hok,
    fun _ => term6_of_pass, term6_of_fail⟩

end Sys2Proof.Machine
end

section
/-! PROOFS. A DECODE that closes nothing, by the class of its byte (R121 to R129). -/

namespace Sys2Proof.Machine
open Sys2Proof.Claims

/-- A byte that closes nothing is answered `(OK, 0, R_NONE)` whatever it does to the sentence (R125). -/
theorem framerStep_answers (s : State) (x : Sentence) :
    framerStep s x = answers { s with sentence := x } (record .ok 0#32 .none) := rfl

/-- DECODE offers its byte to the framer (R120). -/
theorem exec_decode (c : Byte) (s : State) : exec (.decode c) s = execDecode c s := rfl

/-- Settles O37: the start marker's class is judged before the phase. -/
theorem startMarkerRestarts : Obligations.StartMarkerRestarts := by
  unfold Obligations.StartMarkerRestarts
  intro c s hc
  rw [exec_decode, execDecode_start (classify_of_start hc), framerStep_answers]
  rfl

/-- Settles O38: in idle the sentence is written back as it was. -/
theorem idleIgnoresOtherBytes : Obligations.IdleIgnoresOtherBytes := by
  unfold Obligations.IdleIgnoresOtherBytes
  intro c s hdollar hbang hidle
  rw [exec_decode, execDecode_idle (classify_ne_start hdollar hbang) hidle, framerStep_answers]

/-- What the term buffer does with a byte: it stores the byte while it has room, and is marked oversized when full. -/
theorem pushByte_buffer (f : Framer) (c : Byte) :
    (f.tbuf.length < 64 → (f.pushByte c).tbuf = f.tbuf ++ [c] ∧ (f.pushByte c).tovf = f.tovf) ∧
    (64 ≤ f.tbuf.length → (f.pushByte c).tbuf = f.tbuf ∧ (f.pushByte c).tovf = true) := by
  constructor
  · intro hroom
    rw [pushByte_of_room c hroom]
    exact ⟨rfl, rfl⟩
  · intro hfull
    rw [pushByte_of_full c hfull]
    exact ⟨rfl, rfl⟩

/-- Settles O39: the accumulator is set first, then the byte is offered to the term buffer. -/
theorem ordinaryByteAccumulates : Obligations.OrdinaryByteAccumulates := by
  unfold Obligations.OrdinaryByteAccumulates
  intro c s hbody hcomma hbusy
  have hexec : exec (.decode c) s = _ := execDecode_ordinary (classify_of_ordinary hbody hcomma) hbusy
  rw [ordinary_eq, framerStep_answers] at hexec
  obtain ⟨hroom, hfull⟩ :=
    pushByte_buffer (s.sentence.setAcc (if s.sentence.fr.cks then s.sentence.fr.acc else s.sentence.fr.acc ^^^ c)).fr c
  exact ⟨_, hexec, pushByte_acc .., hroom, hfull, by simp [hbusy]⟩

/-- The index of the next term in numbers (R24, R127). -/
theorem nextTerm_eq (k : BitVec 3) : nextTerm k = BitVec.ofNat 3 (min (k.toNat + 1) 7) := by
  revert k; decide

/-- Settles O40, by the section the comma stands in. -/
theorem commaCompletesTerm : Obligations.CommaCompletesTerm := by
  unfold Obligations.CommaCompletesTerm
  intro s hbusy
  rw [exec_decode, execDecode_comma rfl hbusy, framerStep_answers]
  constructor
  · intro hcks
    rw [comma_of_checksum hcks]
  · intro hcks
    refine ⟨_, _, rfl, rfl, ?_⟩
    rw [comma_of_body hcks, nextTerm_eq]
    rfl

/-- Settles O41, by whether the star ends term 6. -/
theorem starOpensChecksumSection : Obligations.StarOpensChecksumSection := by
  unfold Obligations.StarOpensChecksumSection
  intro s hbusy
  rw [exec_decode, execDecode_star rfl hbusy, framerStep_answers]
  constructor
  · intro hcks
    rw [star_of_checksum hcks]
  · intro hcks
    refine ⟨_, _, rfl, rfl, ?_⟩
    by_cases h6 : s.sentence.fr.tidx = 6#3
    · rw [star_of_six hcks h6, if_pos h6]; rfl
    · rw [star_of_other hcks h6, if_neg h6]; rfl

end Sys2Proof.Machine
end

section
/-! PROOFS. The close of a sentence: the checks in order, and what their verdict does to the block (R130, R140, R141). -/

namespace Sys2Proof.Machine
open Sys2Proof.Claims

/-! ## The checksum field (R140, R141) -/

/-- A field that is oversized or no two uppercase hex digits. -/
theorem checkChecksum_of_not_hexField {s : Sentence} (h : s.fr.tovf = true ∨ ¬ ∃ n, hexField s.fr.tbuf n) :
    checkChecksum s = s.fail .errHex := by
  unfold checkChecksum
  split
  case isTrue => rfl
  case isFalse hovf =>
    have hfield : ¬ ∃ n, hexField s.fr.tbuf n := h.resolve_left hovf
    split
    case h_1 a b ht =>
      split
      case h_1 x y hx hy => exact absurd ⟨_, a, b, x, y, ht, hx, hy, rfl⟩ hfield
      all_goals rfl
    all_goals rfl

/-- A field of two uppercase hex digits is compared with the accumulator. -/
theorem checkChecksum_of_hexField {s : Sentence} {n : Nat} (hovf : s.fr.tovf = false) (h : hexField s.fr.tbuf n) :
    checkChecksum s = if n ≠ s.fr.acc.toNat then s.fail .errChecksum else s := by
  obtain ⟨a, b, x, y, ht, hx, hy, rfl⟩ := h
  simp [checkChecksum, hovf, ht, hx, hy]

/-! ## The checks of a close (R130) -/

section
variable {s : Sentence} (p : Params)

/-- A failed sentence keeps its cause. -/
theorem closeCheck_of_failed (h : s.fr.why ≠ .ok) : closeCheck s p = s := by
  simp [closeCheck, h, completeTerm_of_failed, fail_of_failed]

theorem closeCheck_of_checksum (hok : s.fr.why = .ok) (hcks : s.fr.cks = true) : closeCheck s p = checkChecksum s := by
  simp [closeCheck, hok, hcks]

/-- Without a star the sentence fails: IGNORED when its only term is not the identifier, and ERR_FORMAT otherwise. -/
theorem closeCheck_why_of_body (hok : s.fr.why = .ok) (hcks : s.fr.cks = false) :
    (closeCheck s p).fr.why =
      if s.fr.tidx = 0#3 ∧ ¬ (s.fr.tovf = false ∧ s.fr.tbuf = aivdm) then .ignored else .errFormat := by
  have hformat : (s.fail .errFormat).fr.why = .errFormat := by rw [fail_of_ok _ hok]
  by_cases h0 : s.fr.tidx = 0#3
  · by_cases hid : s.fr.tovf = false ∧ s.fr.tbuf = aivdm
    · simp [closeCheck, hcks, h0, completeTerm_zero p hok, term0_of_ok hok, hid, hformat]
    · have hignored : (withCause .ignored s).fail .errFormat = withCause .ignored s := fail_of_failed _ (by simp)
      simp [closeCheck, hcks, h0, completeTerm_zero p hok, term0_of_ok hok, hid, hignored]
  · simp [closeCheck, hcks, h0, hformat]

end

/-! ## What a close does (R130) -/

section
variable {s : State}

theorem closeSentence_of_cause {why : Cause} (hwhy : (closeCheck s.sentence).fr.why = why) (hne : why ≠ .ok) :
    closeSentence s = answers { s with sentence := resetSentence true } (record why.closeStatus 0#32 .none) := by
  obtain ⟨hok, -⟩ | ⟨-, heq⟩ := closeSentence_cases s
  · exact absurd (hwhy.symm.trans hok) hne
  · rw [heq, hwhy]; rfl

theorem closeSentence_of_valid (hok : s.sentence.fr.why = .ok) (hvalid : closeCheck s.sentence = s.sentence) :
    ∃ a, a = accept s.sentence.st.fragment s.fifo s.payload ∧
      closeSentence s =
        answers { s with sentence := resetSentence true, fifo := a.fifo, payload := a.payload }
          (record .fragment 0#32 a.rstat) := by
  obtain ⟨-, heq⟩ | ⟨hfailed, -⟩ := closeSentence_cases s
  · refine ⟨_, rfl, ?_⟩
    rw [heq, hvalid]; rfl
  · rw [hvalid] at hfailed
    exact absurd hok hfailed

end

/-- Settles O45, by the verdict of the checks: an earlier failure, a missing star, a bad field, a wrong and a right value. -/
theorem terminatorClosesSentence : Obligations.TerminatorClosesSentence := by
  unfold Obligations.TerminatorClosesSentence
  refine ⟨fun _ _ => hexDigit_eq_some_iff, fun c s hc hbusy => ?_⟩
  rw [exec_decode, execDecode_terminator (classify_of_terminator hc) hbusy]
  refine ⟨?_, ?_, ?_, ?_⟩
  · rintro why status hpair rfl
    have hstatus : s.sentence.fr.why ≠ .ok ∧ status = s.sentence.fr.why.closeStatus := by
      simp only [List.mem_cons, Prod.mk.injEq, List.not_mem_nil, or_false] at hpair
      obtain ⟨h, rfl⟩ | ⟨h, rfl⟩ | ⟨h, rfl⟩ | ⟨h, rfl⟩ | ⟨h, rfl⟩ := hpair <;> rw [h] <;> decide
    obtain ⟨hfailed, rfl⟩ := hstatus
    exact closeSentence_of_cause (by rw [closeCheck_of_failed hardware hfailed]) hfailed
  · intro hok hcks
    rw [closeSentence_of_cause (closeCheck_why_of_body hardware hok hcks) (by split <;> decide), apply_ite Cause.closeStatus]
    rfl
  · intro hok hcks hbad
    refine closeSentence_of_cause (why := .errHex) ?_ (by decide)
    rw [closeCheck_of_checksum hardware hok hcks, checkChecksum_of_not_hexField hbad, fail_of_ok _ hok]
  · intro n hok hcks hovf hfield
    have hcheck : closeCheck s.sentence = _ :=
      (closeCheck_of_checksum hardware hok hcks).trans (checkChecksum_of_hexField hovf hfield)
    constructor
    · intro hwrong
      refine closeSentence_of_cause (why := .errChecksum) ?_ (by decide)
      rw [hcheck, if_pos hwrong, fail_of_ok _ hok]
    · intro hright
      exact closeSentence_of_valid hok (hcheck.trans (if_neg (not_not.mpr hright)))

end Sys2Proof.Machine
end

section
/-! PROOFS. The reassembly FIFO (spec/41_reassembly.md R170 to R179): ACCEPT by the entry the fragment's id finds. -/

namespace Sys2Proof.Machine

/-! ## A fragment that meets the entry of its id (R174 to R176) -/

section
variable {f : Fragment} {front rest : List Partial} {e : Partial} (pr : Payload)

/-- The last fragment completes the message and removes its entry (R175). -/
theorem acceptMatch_of_last (hnum : f.num = e.next) (ht : f.total = e.total) (hc : e.cnt + 1#4 = e.total) :
    acceptMatch f front.length e (front ++ e :: rest) pr =
      { fifo := front ++ rest, payload := loadPr (e.buf ++ f.pay) f.fill, rstat := .complete } := by
  have hlast : (e.appendFragment f).cnt = (e.appendFragment f).total := hc
  rw [acceptMatch, if_pos ⟨hnum, ht⟩, if_pos hlast, eraseIdx_split]
  rfl

/-- An earlier fragment in sequence extends the entry in its place (R174). -/
theorem acceptMatch_of_not_last (hnum : f.num = e.next) (ht : f.total = e.total) (hc : e.cnt + 1#4 ≠ e.total) :
    acceptMatch f front.length e (front ++ e :: rest) pr =
      { fifo := front ++ e.appendFragment f :: rest, payload := pr, rstat := .append } := by
  have hopen : (e.appendFragment f).cnt ≠ (e.appendFragment f).total := hc
  rw [acceptMatch, if_pos ⟨hnum, ht⟩, if_neg hopen, set_split]

/-- A fragment out of sequence removes the entry (R176). -/
theorem acceptMatch_of_outOfSequence (h : f.num ≠ e.next ∨ f.total ≠ e.total) :
    acceptMatch f front.length e (front ++ e :: rest) pr =
      { fifo := front ++ rest, payload := pr, rstat := .discard } := by
  rw [acceptMatch, if_neg (not_and_or.mpr h), eraseIdx_split]

end

/-! ## A fragment of a new id (R177, R178) -/

section
variable (f : Fragment) {fifo : List Partial} (pr : Payload) {p : Params}

theorem acceptNew_of_room (h : fifo.length ≠ p.fifoN) :
    acceptNew f fifo pr p = { fifo := fifo ++ [f.allocate], payload := pr, rstat := .new } := if_neg h

/-- A full FIFO loses its oldest entry first (R178). -/
theorem acceptNew_of_full (h : fifo.length = p.fifoN) :
    acceptNew f fifo pr p = { fifo := fifo.tail ++ [f.allocate], payload := pr, rstat := .newEvict } := by
  rw [acceptNew, if_pos h, List.eraseIdx_zero]

end

/-! ## The obligations -/

/-- Settles O53: the id finds the entry, and the count after the append tells the last fragment from the others. -/
theorem inSequenceFragmentAppendsOrCompletes : Obligations.InSequenceFragmentAppendsOrCompletes := by
  unfold Obligations.InSequenceFragmentAppendsOrCompletes
  intro f front rest e pr hmulti hfront hid hnum htotal
  rw [accept_of_match pr hardware hmulti hfront hid]
  exact ⟨acceptMatch_of_last pr hnum htotal, acceptMatch_of_not_last pr hnum htotal⟩

/-- Settles O54: the id finds the entry, and the fragment fails the sequence check. -/
theorem outOfSequenceFragmentDiscardsEntry : Obligations.OutOfSequenceFragmentDiscardsEntry := by
  unfold Obligations.OutOfSequenceFragmentDiscardsEntry
  intro f front rest e pr hmulti hfront hid hout
  rw [accept_of_match pr hardware hmulti hfront hid]
  exact acceptMatch_of_outOfSequence pr hout

/-- Settles O55: the id finds no entry, and the FIFO has room or is full. -/
theorem newMessageAllocatesAtTail : Obligations.NewMessageAllocatesAtTail := by
  unfold Obligations.NewMessageAllocatesAtTail
  intro f fifo pr hmulti hnew
  rw [accept_of_new pr hardware hmulti hnew]
  exact ⟨acceptNew_of_room (p := hardware) f pr, acceptNew_of_full (p := hardware) f pr⟩

/-- Settles O52: ACCEPT looks at the total before it searches the FIFO. -/
theorem singleFragmentBypassesFifo : Obligations.SingleFragmentBypassesFifo := by
  unfold Obligations.SingleFragmentBypassesFifo
  intro f fifo pr hsingle
  exact if_pos hsingle

end Sys2Proof.Machine
end

section
/-! PROOFS. The words of formats B and X decode to their commands (R82, R83). -/

namespace Sys2Proof

/-- A word of format B sets no reserved bit of its format. -/
theorem encodeB_and_reservedB (op : BitVec 4) (c : Byte) : encodeB op c &&& reservedB = 0#64 := by
  rw [and_eq_zero_iff]
  intro i hi hreserved
  rw [getLsbD_reservedB i hi, decide_eq_true_eq] at hreserved
  rw [getLsbD_encodeB, if_neg (by omega), if_pos (by omega)]

/-- A word of format X sets no reserved bit of its format. -/
theorem encodeX_and_reservedX (op : BitVec 4) (lo hi : BitVec 12) : encodeX op lo hi &&& reservedX = 0#64 := by
  rw [and_eq_zero_iff]
  intro i hi hreserved
  rw [getLsbD_reservedX i hi, decide_eq_true_eq] at hreserved
  rw [getLsbD_encodeX, if_neg (by omega)]
  obtain hupper | hmiddle := hreserved
  · rw [if_neg (by omega), if_neg (by omega), if_pos (by omega)]
  · rw [if_pos (by omega)]

theorem decodeWord_encodeB_c6 (c : Byte) : decodeWord (encodeB 0x3#4 c) = .instr (.c6 c) := by
  simp [decodeWord, decodeWith, encodeB_and_reservedB]

theorem decodeWord_encodeX_getu (lo hi : BitVec 12) : decodeWord (encodeX 0x4#4 lo hi) = .instr (.getu lo hi) := by
  simp [decodeWord, decodeWith, encodeX_and_reservedX]

theorem decodeWord_encodeX_gets (lo hi : BitVec 12) : decodeWord (encodeX 0x5#4 lo hi) = .instr (.gets lo hi) := by
  simp [decodeWord, decodeWith, encodeX_and_reservedX]

theorem decodeWord_encodeX_getc (lo hi : BitVec 12) : decodeWord (encodeX 0x6#4 lo hi) = .instr (.getc lo hi) := by
  simp [decodeWord, decodeWith, encodeX_and_reservedX]

end Sys2Proof
end

section
/-! PROOFS. The armor map, the payload bit stream and its fields (R201, R203, R206, R210). -/

namespace Sys2Proof.Machine
open Sys2Proof.Claims

/-! ## The armor map (R201, R210) -/

section
variable {c : Byte}

theorem six_of_lower_band (h : 0x30 ≤ c.toNat ∧ c.toNat ≤ 0x57) : six c = some (BitVec.ofNat 6 (c.toNat - 0x30)) :=
  if_pos h

theorem six_of_upper_band (h : 0x60 ≤ c.toNat ∧ c.toNat ≤ 0x77) : six c = some (BitVec.ofNat 6 (c.toNat - 0x38)) := by
  rw [six, if_neg (by omega), if_pos h]

theorem six_of_outside (h : c.toNat < 0x30 ∨ 0x57 < c.toNat ∧ c.toNat < 0x60 ∨ 0x77 < c.toNat) : six c = none := by
  rw [six, if_neg (by omega), if_neg (by omega)]

theorem exec_c6 (c : Byte) (s : State) : exec (.c6 c) s = execC6 c s := rfl

/-- C6 of an armor character answers its 6-bit value. -/
theorem exec_c6_of_armor {n : Nat} (h : six c = some (BitVec.ofNat 6 n)) (hn : n < 64) (s : State) :
    exec (.c6 c) s = answers s (record .ok (BitVec.ofNat 32 n) .none) := by
  rw [exec_c6, execC6, h, ← BitVec.setWidth_ofNat_of_le_of_lt (by decide : 6 ≤ 32) hn]
  rfl

theorem exec_c6_of_not_armor (h : six c = none) (s : State) :
    exec (.c6 c) s = answers s (record .errArmor 0#32 .none) := by
  rw [exec_c6, execC6, h]
  rfl

end

/-- Settles O29: C6 answers what the armor map gives, band by band. -/
theorem c6MapsTheTwoArmorBands : Obligations.C6MapsTheTwoArmorBands := by
  unfold Obligations.C6MapsTheTwoArmorBands
  intro c s
  refine ⟨decodeWord_encodeB_c6 c, ?_, ?_, ?_⟩
  · intro hlower
    exact exec_c6_of_armor (six_of_lower_band hlower) (by omega) s
  · intro hupper
    exact exec_c6_of_armor (six_of_upper_band hupper) (by omega) s
  · intro houtside
    exact exec_c6_of_not_armor (six_of_outside houtside) s

/-! ## The bit stream (R203) -/

/-- A stream bit is the bit of its character, counted from the character's most significant. -/
theorem payloadBit_of_armor {buf : List Byte} {i : Nat} {c : Byte} {v : BitVec 6} (hc : buf[i / 6]? = some c)
    (hv : six c = some v) : payloadBit buf i = (v.getMsbD (i % 6)).toNat := by
  have hb : i % 6 < 6 := Nat.mod_lt i (by decide)
  have hbit : v.getMsbD (i % 6) = v.toNat.testBit (5 - i % 6) := by
    simp [BitVec.getMsbD_eq_getLsbD, BitVec.testBit_toNat, hb]
  rw [hbit, Nat.toNat_testBit, ← Nat.shiftRight_eq_div_pow]
  simp [payloadBit, hc, hv]

/-- Settles O31: bit `6j + b` of the stream stands in character `j`, at offset `b`. -/
theorem streamBitsAreBigEndian : Obligations.StreamBitsAreBigEndian := by
  unfold Obligations.StreamBitsAreBigEndian
  intro buf j b c v hb hc hv
  have hchar : (6 * j + b) / 6 = j := by omega
  have hoffset : (6 * j + b) % 6 = b := by omega
  rw [payloadBit_of_armor (hchar.symm ▸ hc) hv, hoffset]
  exact Bool.cond_eq_ite ..

/-! ## Fields (R206) -/

/-- Appending a bit to a field doubles the weight of every bit before it. -/
theorem fieldSum_succ (buf : List Byte) {lo hi : Nat} (h : lo ≤ hi) :
    fieldSum buf lo (hi + 1) = 2 * fieldSum buf lo hi + payloadBit buf hi := by
  rw [fieldSum, Finset.sum_Ico_succ_top h, fieldSum, Finset.mul_sum]
  congr 1
  · refine Finset.sum_congr rfl fun i hmem => ?_
    have hlt : i < hi := (Finset.mem_Ico.mp hmem).2
    rw [show hi + 1 - 1 - i = hi - 1 - i + 1 by omega, Nat.pow_succ]
    ring
  · simp

/-- The field read bit by bit is the sum of its bits by weight. -/
theorem fieldBits_eq_fieldSum (buf : List Byte) (lo width : Nat) :
    fieldBits buf lo width = fieldSum buf lo (lo + width) := by
  induction width with
  | zero => simp [fieldBits, fieldSum]
  | succ n ih => rw [fieldBits, ih, ← Nat.add_assoc, fieldSum_succ buf (Nat.le_add_right lo n)]

theorem field_eq_fieldSum (buf : List Byte) {lo hi : Nat} (h : lo ≤ hi) : field buf lo hi = fieldSum buf lo hi := by
  rw [field, fieldBits_eq_fieldSum, Nat.add_sub_cancel' h]

theorem field_lt (buf : List Byte) (lo hi : Nat) : field buf lo hi < 2 ^ (hi - lo) := fieldBits_lt buf lo (hi - lo)

end Sys2Proof.Machine
end

section
/-! PROOFS. The operand checks of the extractor, and its four reads (R205, R211 to R214). -/

namespace Sys2Proof.Machine
open Sys2Proof.Claims

/-! ## The operand checks (R205) -/

theorem armorOk_of_all {buf : List Byte} (h : ∀ c ∈ buf, six c ≠ none) : armorOk buf = true :=
  (armorOk_iff buf).mpr fun c hc => Option.isSome_iff_ne_none.mpr (h c hc)

theorem armorOk_of_exists {buf : List Byte} (h : ∃ c ∈ buf, six c = none) : armorOk buf = false := by
  obtain ⟨c, hc, hnone⟩ := h
  rw [Bool.eq_false_iff, Ne, armorOk_iff]
  intro hall
  simpa [hnone] using hall c hc

section
variable {k : Kind} {lo hi : BitVec 12} {tooWide : Prop} {s : State}

/-- The checks find the first failure as the statements write it. -/
theorem xcheck_of_checkFails {pr : Payload} {st : Status}
    (hwide : k.widthOk (hi.toNat - lo.toNat) = false ↔ tooWide) (h : checkFails pr lo hi tooWide st) :
    xcheck k lo.toNat hi.toNat pr = st := by
  obtain ⟨rfl, hinvalid⟩ | ⟨rfl, hvalid, hbad⟩ | ⟨rfl, hvalid, hall, hrange⟩ | ⟨rfl, hvalid, hall, hle, hfits, hpast⟩ := h
  · simp [xcheck, hinvalid]
  · simp [xcheck, hvalid, armorOk_of_exists hbad]
  · rw [← hwide] at hrange
    obtain hswapped | hwidth := hrange
    · simp [xcheck, hvalid, armorOk_of_all hall, hswapped]
    · simp [xcheck, hvalid, armorOk_of_all hall, hwidth]
  · rw [← hwide] at hfits
    simp [xcheck, hvalid, armorOk_of_all hall, Nat.not_lt.mpr hle, hfits, bitlen, hpast]

theorem xcheck_of_readable {pr : Payload} (hwide : k.widthOk (hi.toNat - lo.toNat) = false ↔ tooWide)
    (hfits : ¬ tooWide) (h : readable pr lo hi) : xcheck k lo.toNat hi.toNat pr = .ok := by
  rw [← hwide] at hfits
  obtain ⟨hvalid, hall, hle, hend⟩ := h
  simp [xcheck, hvalid, (armorOk_iff pr.buf).mpr hall, Nat.not_lt.mpr hle, hfits, bitlen, Nat.not_lt.mpr hend]

/-- An extraction with a failing check answers that check's status alone. -/
theorem extract_of_checkFails {st : Status} (hwide : k.widthOk (hi.toNat - lo.toNat) = false ↔ tooWide) (r : Result)
    (h : checkFails s.payload lo hi tooWide st) : extract k lo hi r s = answers s (record st 0#32 .none) := by
  have hcheck : xcheck k lo.toNat hi.toNat s.payload = st := xcheck_of_checkFails hwide h
  obtain ⟨hok, -⟩ | ⟨-, heq⟩ := extract_cases k lo hi r s
  · obtain ⟨rfl, -⟩ | ⟨rfl, -⟩ | ⟨rfl, -⟩ | ⟨rfl, -⟩ := h <;> exact absurd (hcheck.symm.trans hok) (by decide)
  · rw [heq, hcheck]
    rfl

/-- An extraction with no failing check answers its result. -/
theorem extract_of_readable (hwide : k.widthOk (hi.toNat - lo.toNat) = false ↔ tooWide) (hfits : ¬ tooWide) (r : Result)
    (h : readable s.payload lo hi) : extract k lo hi r s = answers s r := by
  obtain ⟨-, heq⟩ | ⟨hbad, -⟩ := extract_cases k lo hi r s
  · exact heq
  · exact absurd (xcheck_of_readable hwide hfits h) hbad

end

/-! ### The width limits of the three kinds -/

theorem widthOk_unsigned_eq_false_iff (w : Nat) : Kind.unsigned.widthOk w = false ↔ 32 < w := by
  simp [Kind.widthOk]

theorem widthOk_signed_eq_false_iff (w : Nat) : Kind.signed.widthOk w = false ↔ 32 < w := by
  simp [Kind.widthOk]

theorem widthOk_text_eq_false_iff (w : Nat) : Kind.text.widthOk w = false ↔ w % 6 ≠ 0 ∨ 20 < w / 6 := by
  rw [Kind.widthOk, decide_eq_false_iff_not, not_and_or, Nat.not_le]

/-! ## GETU (R211) -/

theorem exec_getu (lo hi : BitVec 12) (s : State) :
    exec (.getu lo hi) s =
      extract .unsigned lo hi (record .ok (BitVec.ofNat 32 (field s.payload.buf lo.toNat hi.toNat)) .none) s := rfl

/-- Settles O32: a field of at most 32 bits fits the value. -/
theorem getuReturnsUnsignedField : Obligations.GetuReturnsUnsignedField := by
  unfold Obligations.GetuReturnsUnsignedField
  intro lo hi s
  rw [exec_getu]
  refine ⟨decodeWord_encodeX_getu lo hi, fun st => extract_of_checkFails (widthOk_unsigned_eq_false_iff _) _, ?_⟩
  intro hread hwidth
  refine ⟨_, extract_of_readable (widthOk_unsigned_eq_false_iff _) (Nat.not_lt.mpr hwidth) _ hread, ?_⟩
  have hfits : field s.payload.buf lo.toNat hi.toNat < 2 ^ 32 :=
    (field_lt ..).trans_le (Nat.pow_le_pow_right (by decide) hwidth)
  obtain ⟨-, -, hle, -⟩ := hread
  rw [BitVec.toNat_ofNat, Nat.mod_eq_of_lt hfits, field_eq_fieldSum _ hle]

/-! ## GETS (R212) -/

theorem exec_gets (lo hi : BitVec 12) (s : State) :
    exec (.gets lo hi) s =
      extract .signed lo hi
        (record .ok
          (BitVec.ofInt 32 (signedValue (hi.toNat - lo.toNat) (field s.payload.buf lo.toNat hi.toNat))) .none) s := rfl

/-- The signed value of a field of at most 32 bits fits 32 bits of two's complement. -/
theorem signedValue_bounds {w u : Nat} (hw : w ≤ 32) (hu : u < 2 ^ w) :
    -2 ^ 31 ≤ signedValue w u ∧ signedValue w u < 2 ^ 31 := by
  cases w with
  | zero =>
    have hzero : u = 0 := by simpa using hu
    simp [signedValue, hzero]
  | succ n =>
    have hpow : 2 ^ n ≤ 2 ^ 31 := Nat.pow_le_pow_right (by decide) (by omega)
    have hdouble : (2 : Int) ^ (n + 1) = (2 ^ n : Nat) * 2 := by rw [Int.pow_succ, Nat.cast_pow, Nat.cast_ofNat]
    rw [Nat.pow_succ] at hu
    rw [signedValue, Nat.add_sub_cancel, hdouble]
    split <;> omega

/-- Settles O33: the signed value survives the 32 bits of the value. -/
theorem getsReturnsSignedField : Obligations.GetsReturnsSignedField := by
  unfold Obligations.GetsReturnsSignedField
  intro lo hi s
  rw [exec_gets]
  refine ⟨decodeWord_encodeX_gets lo hi, fun st => extract_of_checkFails (widthOk_signed_eq_false_iff _) _, ?_⟩
  intro hread hwidth
  refine ⟨_, extract_of_readable (widthOk_signed_eq_false_iff _) (Nat.not_lt.mpr hwidth) _ hread, ?_⟩
  obtain ⟨hlower, hupper⟩ := signedValue_bounds hwidth (field_lt s.payload.buf lo.toNat hi.toNat)
  obtain ⟨-, -, hle, -⟩ := hread
  rw [BitVec.toInt_ofInt_eq_self (by decide) hlower hupper, field_eq_fieldSum _ hle]
  rfl

/-! ## GETC (R213) -/

theorem exec_getc (lo hi : BitVec 12) (s : State) :
    exec (.getc lo hi) s =
      extract .text lo hi (textResult (trimFill (textChars s.payload.buf lo.toNat ((hi.toNat - lo.toNat) / 6)))) s := rfl

theorem isFill_iff (c : Byte) : isFill c = true ↔ c = 0x40#8 ∨ c = 0x20#8 := by simp [isFill]

/-- Trimming looks at the last character first. -/
theorem trimFill_concat (t : List Byte) (c : Byte) :
    trimFill (t ++ [c]) = if isFill c then trimFill t else t ++ [c] := List.rdropWhile_concat isFill t c

/-- What is left of the text `ch 0, …, ch (n - 1)` is `ch 0, …, ch (m - 1)`: only fill is lost, and it ends in no fill. -/
theorem trimFill_map_range (ch : Nat → Byte) (n : Nat) :
    ∃ m, m ≤ n ∧ trimFill ((List.range n).map ch) = (List.range m).map ch ∧
      (∀ k, m ≤ k → k < n → isFill (ch k) = true) ∧ (0 < m → isFill (ch (m - 1)) = false) := by
  induction n with
  | zero => exact ⟨0, le_rfl, rfl, by omega, by omega⟩
  | succ n ih =>
    have hconcat : (List.range (n + 1)).map ch = (List.range n).map ch ++ [ch n] := by
      rw [List.range_succ, List.map_append, List.map_singleton]
    cases hfill : isFill (ch n) with
    | true =>
      obtain ⟨m, hm, htrim, hlost, hlast⟩ := ih
      refine ⟨m, by omega, by rw [hconcat, trimFill_concat, if_pos hfill, htrim], fun k hk hkn => ?_, hlast⟩
      obtain hkn | rfl := Nat.lt_succ_iff_lt_or_eq.mp hkn
      · exact hlost k hk hkn
      · exact hfill
    | false =>
      exact ⟨n + 1, le_rfl, by rw [hconcat, trimFill_concat, hfill]; rfl, by omega, fun _ => hfill⟩

/-- Padding the first `m` characters with NUL to `n`. -/
theorem map_range_append_replicate (ch : Nat → Byte) {m n : Nat} (h : m ≤ n) :
    (List.range m).map ch ++ List.replicate (n - m) 0x00#8 =
      (List.range n).map fun k => if k < m then ch k else 0x00#8 := by
  apply List.ext_getElem
  · simp [h]
  · intro k _ _
    by_cases hk : k < m <;> simp [List.getElem_append, hk]

/-- The record of a text of at most 20 characters. -/
theorem textResult_map_range (ch : Nat → Byte) {m : Nat} (h : m ≤ 20) :
    textResult ((List.range m).map ch) =
      { status := .ok, value := BitVec.ofNat 32 m, rstat := .none
        str := (List.range 20).map fun k => if k < m then ch k else 0x00#8 } := by
  rw [← map_range_append_replicate ch h]
  simp [textResult]

/-- Character `k` of the text field from bit `lo` (R213). -/
def textChar (buf : List Byte) (lo k : Nat) : Byte := ascii6 (BitVec.ofNat 6 (field buf (lo + 6 * k) (lo + 6 * k + 6)))

theorem textChars_eq (buf : List Byte) (lo n : Nat) : textChars buf lo n = (List.range n).map (textChar buf lo) := rfl

/-- Settles O34: the trimmed text is the first `m` of the `n` characters, and is padded to 20. -/
theorem getcReturnsTrimmedText : Obligations.GetcReturnsTrimmedText := by
  unfold Obligations.GetcReturnsTrimmedText
  intro lo hi s
  rw [exec_getc]
  refine ⟨decodeWord_encodeX_getc lo hi, fun st => extract_of_checkFails (widthOk_text_eq_false_iff _) _, ?_⟩
  intro n hread hwidth hn
  obtain ⟨m, hm, htrim, hlost, hlast⟩ := trimFill_map_range (textChar s.payload.buf lo.toNat) n
  refine ⟨m, textChar s.payload.buf lo.toNat, hm, fun k _ => ?_, fun k hk hkn => (isFill_iff _).mp (hlost k hk hkn), ?_, ?_⟩
  · rw [textChar, field_eq_fieldSum _ (Nat.le_add_right ..)]
  · intro hpos
    rw [← not_or, ← isFill_iff, hlast hpos]
    decide
  · have hchars : (hi.toNat - lo.toNat) / 6 = n := by omega
    rw [hchars, textChars_eq, htrim, textResult_map_range _ (hm.trans hn)]
    exact extract_of_readable (widthOk_text_eq_false_iff _) (by omega) _ hread

/-! ## The three extractions together (R205) -/

/-- Each extraction is an `extract` whose own result has status OK and R_NONE, at the width limit of its kind. -/
theorem exec_extraction {lo hi : BitVec 12} {i : Instr} (s : State) (h : i ∈ [Instr.getu lo hi, .gets lo hi, .getc lo hi]) :
    ∃ k v str, exec i s = extract k lo hi { status := .ok, value := v, rstat := .none, str := str } s ∧
      (k.widthOk (hi.toNat - lo.toNat) = false ↔
        (i ≠ .getc lo hi ∧ 32 < hi.toNat - lo.toNat) ∨
          (i = .getc lo hi ∧ ((hi.toNat - lo.toNat) % 6 ≠ 0 ∨ 20 < (hi.toNat - lo.toNat) / 6))) := by
  simp only [List.mem_cons, List.not_mem_nil, or_false] at h
  obtain rfl | rfl | rfl := h
  · exact ⟨_, _, _, exec_getu lo hi s, by rw [widthOk_unsigned_eq_false_iff]; simp⟩
  · exact ⟨_, _, _, exec_gets lo hi s, by rw [widthOk_signed_eq_false_iff]; simp⟩
  · exact ⟨_, _, _, exec_getc lo hi s, by rw [widthOk_text_eq_false_iff]; simp⟩

/-- Settles O35: each extraction is one `extract`, so each clause is a disjunct of `checkFails` or, with none, `readable`. -/
theorem extractionChecksInOrder : Obligations.ExtractionChecksInOrder := by
  unfold Obligations.ExtractionChecksInOrder
  intro lo hi s i hmem
  obtain ⟨k, v, str, hexec, hwide⟩ := exec_extraction s hmem
  rw [hexec]
  refine ⟨fun hinvalid => ?_, fun hvalid hbad => ?_, fun hvalid hall hrange => ?_, fun hvalid hall hrange => ⟨?_, ?_⟩⟩
  · exact extract_of_checkFails hwide _ (.inl ⟨rfl, hinvalid⟩)
  · exact extract_of_checkFails hwide _ (.inr (.inl ⟨rfl, hvalid, hbad⟩))
  · exact extract_of_checkFails hwide _ (.inr (.inr (.inl ⟨rfl, hvalid, hall, hrange⟩)))
  · obtain ⟨hle, hfits⟩ := not_or.mp hrange
    intro hpast
    exact extract_of_checkFails hwide _ (.inr (.inr (.inr ⟨rfl, hvalid, hall, Nat.not_lt.mp hle, hfits, hpast⟩)))
  · obtain ⟨hle, hfits⟩ := not_or.mp hrange
    intro hend
    refine ⟨v, str, extract_of_readable hwide hfits _ ?_⟩
    exact ⟨hvalid, fun c hc => Option.isSome_iff_ne_none.mpr (hall c hc), Nat.not_lt.mp hle, hend⟩

/-! ## RDPR (R214) -/

theorem exec_rdpr (s : State) : exec .rdpr s = answers s (record .ok s.payload.descriptor .none) := rfl

/-- Concatenation as a number: the upper part weighs `2 ^ n`. -/
theorem toNat_append_eq_add {m n : Nat} (x : BitVec m) (y : BitVec n) :
    (x ++ y).toNat = x.toNat * 2 ^ n + y.toNat := by
  rw [BitVec.toNat_append, ← Nat.shiftLeft_add_eq_or_of_lt y.isLt, Nat.shiftLeft_eq]

/-- The descriptor by the places of its fields. -/
theorem toNat_descriptor (p : Payload) :
    p.descriptor.toNat = p.valid.toNat * 2 ^ 31 + p.fill.toNat * 2 ^ 16 + p.buf.length % 2 ^ 10 := by
  refine (toNat_append_eq_add (BitVec.ofBool p.valid) (0#12 ++ (p.fill ++ (0#6 ++ BitVec.ofNat 10 p.buf.length)))).trans ?_
  rw [toNat_append_eq_add, toNat_append_eq_add, toNat_append_eq_add]
  simp [Nat.add_assoc]

/-- Settles O36: a length of at most 576 fits the 10 bits of its field. -/
theorem rdprReturnsDescriptor : Obligations.RdprReturnsDescriptor := by
  unfold Obligations.RdprReturnsDescriptor
  refine ⟨by decide, fun s hlen => ⟨_, exec_rdpr s, ?_⟩⟩
  rw [toNat_descriptor, Nat.mod_eq_of_lt (by omega)]

end Sys2Proof.Machine
end

section
/-! PROOFS. The words of formats T and G decode to their commands (R82, R83). -/

namespace Sys2Proof

/-- A word of format T sets no reserved bit of its format. -/
theorem encodeT_and_reservedT (op : BitVec 4) (slot : BitVec 8) (t : BitVec 32) :
    encodeT op slot t &&& reservedT = 0#64 := by
  rw [and_eq_zero_iff]
  intro i hi hreserved
  rw [getLsbD_reservedT i hi, decide_eq_true_eq] at hreserved
  rw [getLsbD_encodeT, if_neg (by omega), if_neg (by omega), if_pos (by omega)]

/-- A word of format G sets no reserved bit of its format. -/
theorem encodeG_and_reservedG (op : BitVec 4) (timeout : BitVec 16) (listmax : BitVec 8) :
    encodeG op timeout listmax &&& reservedG = 0#64 := by
  rw [and_eq_zero_iff]
  intro i hi hreserved
  rw [getLsbD_reservedG i hi, decide_eq_true_eq] at hreserved
  rw [getLsbD_encodeG, if_neg (by omega), if_neg (by omega), if_pos (by omega)]

theorem decodeWord_encodeG_setcfg (timeout : BitVec 16) (listmax : BitVec 8) :
    decodeWord (encodeG 0x7#4 timeout listmax) = .instr (.setcfg timeout listmax) := by
  simp [decodeWord, decodeWith, encodeG_and_reservedG]

theorem decodeWord_encodeT_touch (slot : BitVec 8) (t : BitVec 32) :
    decodeWord (encodeT 0x8#4 slot t) = .instr (.touch slot t) := by
  simp [decodeWord, decodeWith, encodeT_and_reservedT]

theorem decodeWord_encodeT_age (slot : BitVec 8) (now : BitVec 32) :
    decodeWord (encodeT 0x9#4 slot now) = .instr (.age slot now) := by
  simp [decodeWord, decodeWith, encodeT_and_reservedT]

theorem decodeWord_encodeT_tick (now : BitVec 32) : decodeWord (encodeT 0xA#4 0#8 now) = .instr (.tick now) := by
  simp [decodeWord, decodeTick, encodeT_and_reservedT]

theorem decodeWord_encodeT_rdslot (slot : BitVec 8) :
    decodeWord (encodeT 0xB#4 slot 0#32) = .instr (.rdslot slot) := by
  simp [decodeWord, decodeRead, encodeT_and_reservedT]

end Sys2Proof
end

section
/-! PROOFS. The comparator, the sweep and its mask at any parameters, and each command of spec/43_eviction.md by its guards. -/

namespace Sys2Proof.Machine
open Sys2Proof.Claims

section
variable {p : Params}

/-! ## The comparator (R241) -/

theorem ageExceeds_stamp_iff (timeout : Seconds p) (now : BitVec 32) (last : Millis p) :
    ageExceeds timeout (stamp now p) last = true ↔ tooOldFor p timeout now last := by
  rw [ageExceeds_iff, tooOldFor, ← stamp_sub_toNat, gt_iff_lt]
  norm_cast

theorem expired_stamp_iff (timeout : Seconds p) (now : BitVec 32) (x : Slot p) :
    expired timeout (stamp now p) x = true ↔ x.live = true ∧ tooOldFor p timeout now x.last := by
  rw [expired_iff, ageExceeds_stamp_iff]

/-! ## The value of AGE (R243) -/

/-- The value of AGE: `live` in bit 1, `cond` in bit 0 and 0 in every other bit (R243). -/
def ageValue (live cond : Bool) : Value := 0#30 ++ (BitVec.ofBool live ++ BitVec.ofBool cond)

section
variable (live cond : Bool)

theorem getLsbD_ageValue_zero : (ageValue live cond).getLsbD 0 = cond := by
  cases live <;> cases cond <;> rfl

theorem getLsbD_ageValue_one : (ageValue live cond).getLsbD 1 = live := by
  cases live <;> cases cond <;> rfl

theorem getLsbD_ageValue_of_two_le {k : Nat} (h : 2 ≤ k) : (ageValue live cond).getLsbD k = false := by
  have hlt : (ageValue live cond).toNat < 2 ^ 2 := by cases live <;> cases cond <;> decide
  rw [← BitVec.testBit_toNat]
  exact Nat.testBit_lt_two_pow (hlt.trans_le (Nat.pow_le_pow_right (by decide) h))

end

/-! ## One slot written (R242) -/

theorem setSlot_getElem?_same (s : State p) {i : Nat} (x : Slot p) (h : i < p.vslots) :
    (s.setSlot i x).vessels[i]? = some x := by
  rw [State.setSlot_vessels, Vector.getElem?_setIfInBounds_self_of_lt h]

theorem setSlot_getElem?_ne (s : State p) {i k : Nat} (x : Slot p) (h : k ≠ i) :
    (s.setSlot i x).vessels[k]? = s.vessels[k]? := by
  rw [State.setSlot_vessels, Vector.getElem?_setIfInBounds_ne h.symm]

/-! ## The sweep and its mask (R245) -/

section
variable {timeout : Seconds p} {now : Millis p} {x : Slot p} {n : Nat} {v : Vector (Slot p) n}

theorem sweepSlot_of_expired (h : expired timeout now x = true) : sweepSlot timeout now x = Slot.free := if_pos h

theorem sweepSlot_of_not_expired (h : expired timeout now x = false) : sweepSlot timeout now x = x := by
  rw [sweepSlot, h]
  rfl

/-- No slot is expired after a sweep at the same time and timeout: it is free, or was not expired before. -/
theorem expired_sweepSlot (timeout : Seconds p) (now : Millis p) (x : Slot p) :
    expired timeout now (sweepSlot timeout now x) = false := by
  obtain ⟨-, hfree⟩ | ⟨hkept, hsame⟩ := sweepSlot_cases timeout now x
  · rw [hfree]
    rfl
  · rw [hsame, hkept]

/-- Bit `k` of the mask says whether slot `k` is expired. -/
theorem getLsbD_evictMask (hn : n ≤ 32) {k : Nat} (hx : v[k]? = some x) :
    (evictMask timeout now v).getLsbD k = expired timeout now x := by
  obtain ⟨hk, -⟩ := Vector.getElem?_eq_some_iff.mp hx
  rw [evictMask, BitVec.getLsbD_ofNat, maskNat_testBit, List.getD_eq_getElem?_getD, List.getElem?_map,
    Vector.getElem?_toList, hx, decide_eq_true (hk.trans_le hn)]
  rfl

theorem maskNat_eq_zero {l : List Bool} (h : ∀ b ∈ l, b = false) : maskNat l = 0 := by
  induction l with
  | nil => rfl
  | cons b l ih =>
    obtain ⟨rfl, hl⟩ := List.forall_mem_cons.mp h
    rw [maskNat, ih hl]
    rfl

/-- With no slot expired the mask is 0. -/
theorem evictMask_eq_zero (h : ∀ x ∈ v.toList, expired timeout now x = false) : evictMask timeout now v = 0#32 := by
  have hmask : maskNat (v.toList.map (expired timeout now)) = 0 := maskNat_eq_zero (by simpa using h)
  rw [evictMask, hmask]

/-- With no slot expired the sweep keeps the table. -/
theorem mapSlots_sweepSlot_eq_self (h : ∀ x ∈ v.toList, expired timeout now x = false) :
    mapSlots (sweepSlot timeout now) v = v := by
  rw [← Vector.toList_inj, mapSlots_toList]
  exact (List.map_congr_left fun x hx => sweepSlot_of_not_expired (h x hx)).trans (List.map_id _)

end

section
variable {n : Nat} {v : Vector (Slot p) n} {timeout : Seconds p} {now : BitVec 32} {k : Nat} {x : Slot p} (hn : n ≤ 32)
  (hx : v[k]? = some x)
include hn hx

/-- A live slot whose age exceeds the timeout is freed and reported. -/
theorem sweep_of_tooOld (hold : x.live = true ∧ tooOldFor p timeout now x.last) :
    (mapSlots (sweepSlot timeout (stamp now p)) v)[k]? = some Slot.free ∧
      (evictMask timeout (stamp now p) v).getLsbD k = true := by
  have hexpired := (expired_stamp_iff timeout now x).mpr hold
  rw [mapSlots_getElem?, hx, getLsbD_evictMask hn hx, Option.map_some, sweepSlot_of_expired hexpired]
  exact ⟨rfl, hexpired⟩

/-- Any other slot is kept and not reported. -/
theorem sweep_of_not_tooOld (hkeep : ¬ (x.live = true ∧ tooOldFor p timeout now x.last)) :
    (mapSlots (sweepSlot timeout (stamp now p)) v)[k]? = some x ∧
      (evictMask timeout (stamp now p) v).getLsbD k = false := by
  have hkept := Bool.eq_false_iff.mpr (hkeep ∘ (expired_stamp_iff timeout now x).mp)
  rw [mapSlots_getElem?, hx, getLsbD_evictMask hn hx, Option.map_some, sweepSlot_of_not_expired hkept]
  exact ⟨rfl, hkept⟩

end

/-! ## Each command by its guards, at any parameters -/

section
variable {s : State p} {slot : BitVec 8}

theorem execSetcfg_of_le (timeout : BitVec 16) {listmax : BitVec 8} (h : listmax.toNat ≤ p.vslots) :
    execSetcfg timeout listmax s =
      answers { s with cfg := { timeout := seconds timeout p, listmax := listmax } } (recordFor p .ok 0#32) :=
  if_neg (Nat.not_lt.mpr h)

theorem execSetcfg_of_gt (timeout : BitVec 16) {listmax : BitVec 8} (h : p.vslots < listmax.toNat) :
    execSetcfg timeout listmax s = answers s (recordFor p .errRange 0#32) := if_pos h

theorem execTouch_of_lt (t : BitVec 32) (h : slot.toNat < p.vslots) (hl : slot.toNat < s.cfg.listmax.toNat) :
    execTouch slot t s =
      answers (s.setSlot slot.toNat { live := true, last := stamp t p }) (recordFor p .ok 0#32) :=
  if_neg (not_or.mpr ⟨Nat.not_le.mpr h, Nat.not_le.mpr hl⟩)

theorem execTouch_of_le (t : BitVec 32) (h : p.vslots ≤ slot.toNat ∨ s.cfg.listmax.toNat ≤ slot.toNat) :
    execTouch slot t s = answers s (recordFor p .errSlot 0#32) := if_pos h

theorem execAge_of_get (now : BitVec 32) {x : Slot p} (hx : s.vessels[slot.toNat]? = some x) :
    execAge slot now s =
      answers s (recordFor p .ok (ageValue x.live (ageExceeds s.cfg.timeout (stamp now p) x.last))) := by
  obtain ⟨hslot, -⟩ := Vector.getElem?_eq_some_iff.mp hx
  rw [execAge, if_neg (Nat.not_le.mpr hslot), slot_of_get hx]
  rfl

theorem execAge_of_le (now : BitVec 32) (h : p.vslots ≤ slot.toNat) :
    execAge slot now s = answers s (recordFor p .errSlot 0#32) := if_pos h

theorem execTick_eq (now : BitVec 32) (s : State p) :
    execTick now s =
      answers { s with vessels := mapSlots (sweepSlot s.cfg.timeout (stamp now p)) s.vessels }
        (recordFor p .ok (evictMask s.cfg.timeout (stamp now p) s.vessels)) := rfl

/-- TICK with no slot expired changes nothing and reports nothing. -/
theorem execTick_of_none_expired {now : BitVec 32}
    (h : ∀ x ∈ s.vessels.toList, expired s.cfg.timeout (stamp now p) x = false) :
    execTick now s = answers s (recordFor p .ok 0#32) := by
  rw [execTick_eq, mapSlots_sweepSlot_eq_self h, evictMask_eq_zero h]

theorem execRdslot_of_get {x : Slot p} (hx : s.vessels[slot.toNat]? = some x) :
    execRdslot slot s = answers s (recordFor p .ok x.lastValue) := by
  obtain ⟨hslot, -⟩ := Vector.getElem?_eq_some_iff.mp hx
  rw [execRdslot, if_neg (Nat.not_le.mpr hslot), slot_of_get hx]
  rfl

theorem execRdslot_of_le (h : p.vslots ≤ slot.toNat) :
    execRdslot slot s = answers s (recordFor p .errSlot 0#32) := if_pos h

end

end

/-! ## The commands at this hardware -/

section
variable (timeout : BitVec 16) (listmax slot : BitVec 8) (t : BitVec 32) (s : State)

theorem exec_setcfg : exec (.setcfg timeout listmax) s = execSetcfg timeout listmax s := rfl
theorem exec_touch : exec (.touch slot t) s = execTouch slot t s := rfl
theorem exec_age : exec (.age slot t) s = execAge slot t s := rfl
theorem exec_tick : exec (.tick t) s = execTick t s := rfl
theorem exec_rdslot : exec (.rdslot slot) s = execRdslot slot s := rfl

end

/-- Settles O22: LISTMAX is compared with VSLOTS before either register is written. -/
theorem setcfgWritesBothOrNeither : Obligations.SetcfgWritesBothOrNeither := by
  unfold Obligations.SetcfgWritesBothOrNeither
  intro timeout listmax s
  rw [exec_setcfg]
  refine ⟨decodeWord_encodeG_setcfg timeout listmax, fun hle => ?_, fun hgt => execSetcfg_of_gt timeout hgt⟩
  have hexec := execSetcfg_of_le (s := s) timeout hle
  rwa [seconds_hardware] at hexec

/-- Settles O23: TOUCH is one slot write behind its two bounds. -/
theorem touchStampsOneSlot : Obligations.TouchStampsOneSlot := by
  unfold Obligations.TouchStampsOneSlot
  intro slot time s
  rw [exec_touch]
  refine ⟨decodeWord_encodeT_touch slot time, fun hslot hlist => ?_, fun hpast => execTouch_of_le time hpast⟩
  have hexec := execTouch_of_lt time hslot hlist
  rw [stamp_hardware] at hexec
  exact ⟨_, hexec, setSlot_getElem?_same s _ hslot, fun _ => setSlot_getElem?_ne s _⟩

/-- Settles O24: bit by bit of AGE's value. -/
theorem ageEvaluatesComparator : Obligations.AgeEvaluatesComparator := by
  unfold Obligations.AgeEvaluatesComparator
  intro slot now s
  rw [exec_age]
  refine ⟨decodeWord_encodeT_age slot now, fun hpast => execAge_of_le now hpast, fun x hx => ?_⟩
  refine ⟨_, execAge_of_get now hx, ?_, getLsbD_ageValue_one .., fun _ => getLsbD_ageValue_of_two_le _ _⟩
  rw [getLsbD_ageValue_zero]
  exact ageExceeds_stamp_iff s.cfg.timeout now x.last

/-- Settles O25: TICK judges each slot by itself, and the mask repeats the judgement. -/
theorem tickEvictsExactlyExpiredSlots : Obligations.TickEvictsExactlyExpiredSlots := by
  unfold Obligations.TickEvictsExactlyExpiredSlots
  intro now s
  rw [exec_tick]
  refine ⟨decodeWord_encodeT_tick now, _, _, execTick_eq now s, fun k x hx => ⟨?_, ?_⟩⟩
  · exact sweep_of_tooOld le_rfl hx
  · exact sweep_of_not_tooOld le_rfl hx

/-- Settles O26: RDSLOT reads the stamp, which the invariant makes 0 in a slot that is not live. -/
theorem rdslotReadsStamp : Obligations.RdslotReadsStamp := by
  unfold Obligations.RdslotReadsStamp
  intro slot s
  rw [exec_rdslot]
  refine ⟨decodeWord_encodeT_rdslot slot, fun hpast => execRdslot_of_le hpast, fun x hx => ?_⟩
  have hexec := execRdslot_of_get hx
  rw [lastValue_hardware] at hexec
  refine ⟨hexec, fun hinv hdead => ?_⟩
  have hlast : x.last = 0#32 := hinv.slots x (Vector.mem_toList_iff.mpr (Vector.mem_of_getElem? hx)) hdead
  rw [← hlast]
  exact hexec

/-! ## The boundary (R244) -/

/-- An age below 2^32 is what the comparator sees, whatever the stamp. -/
theorem tooOld_add_ofNat_iff (timeout : BitVec 16) (t0 : BitVec 32) {age : Nat} (h : age < 2 ^ 32) :
    tooOld timeout (t0 + BitVec.ofNat 32 age) t0 ↔ timeout.toNat * 1000 < age := by
  have hage : (((t0 + BitVec.ofNat 32 age).toNat : Int) - t0.toNat) % 2 ^ 32 = age := by
    rw [BitVec.toNat_add, BitVec.toNat_ofNat]
    omega
  rw [tooOld, hage, gt_iff_lt]
  norm_cast

/-- Settles O27: the age at the first TICK is the timeout in milliseconds, at the second one more, and a sweep leaves no slot
expired. -/
theorem timeoutBoundaryIsExact : Obligations.TimeoutBoundaryIsExact := by
  unfold Obligations.TimeoutBoundaryIsExact
  intro slot t0 s hslot hlist
  have htouch := execTouch_of_lt t0 hslot hlist
  rw [stamp_hardware] at htouch
  have htouched := setSlot_getElem?_same s { live := true, last := t0 } hslot
  have htimeout := seconds_lt s.cfg.timeout
  refine ⟨_, _, _, htouch, execTick_eq _ _, ?_, execTick_eq _ _, ?_, execTick_of_none_expired ?_⟩
  · refine (sweep_of_not_tooOld le_rfl htouched fun ⟨_, hold⟩ => ?_).1
    have hlate := (tooOld_add_ofNat_iff s.cfg.timeout t0 (by omega)).mp hold
    omega
  · refine (sweep_of_tooOld le_rfl htouched ⟨rfl, ?_⟩).1
    exact (tooOld_add_ofNat_iff s.cfg.timeout t0 (by omega)).mpr (by omega)
  · intro x hx
    rw [mapSlots_toList] at hx
    obtain ⟨y, -, rfl⟩ := List.mem_map.mp hx
    exact expired_sweepSlot ..

end Sys2Proof.Machine
end

section
/-! PROOFS. The control commands NOP, RESET and RDFIFO and the reserved opcodes (spec/44_control.md). -/

namespace Sys2Proof.Machine
open Sys2Proof.Claims

/-! ## RDFIFO (R273) -/

theorem decodeWord_encodeT_rdfifo (pos : BitVec 8) : decodeWord (encodeT 0xC#4 pos 0#32) = .instr (.rdfifo pos) := by
  simp [decodeWord, decodeRead, encodeT_and_reservedT]

/-- The descriptor of an entry by the places of its fields. -/
theorem Partial.toNat_descriptor (e : Partial) :
    e.descriptor.toNat = 2 ^ 31 + e.buf.length % 2 ^ 10 * 2 ^ 20 + e.cnt.toNat * 2 ^ 16 + e.next.toNat * 2 ^ 12 +
      e.total.toNat * 2 ^ 8 + e.id.toNat := by
  refine (toNat_append_eq_add 1#1
    (0#1 ++ (BitVec.ofNat 10 e.buf.length ++ (e.cnt ++ (e.next ++ (e.total ++ e.id)))))).trans ?_
  rw [toNat_append_eq_add, toNat_append_eq_add, toNat_append_eq_add, toNat_append_eq_add, toNat_append_eq_add]
  simp [Nat.add_assoc]

section
variable {p : Params} {pos : BitVec 8} {s : State p}

theorem execRdfifo_of_le (h : p.fifoN ≤ pos.toNat) : execRdfifo pos s = answers s (recordFor p .errSlot 0#32) := if_pos h

theorem execRdfifo_of_length_le (hpos : pos.toNat < p.fifoN) (hlen : s.fifo.length ≤ pos.toNat) :
    execRdfifo pos s = answers s (recordFor p .ok 0#32) := by
  rw [execRdfifo, if_neg (Nat.not_le.mpr hpos), List.getElem?_eq_none hlen]
  rfl

theorem execRdfifo_of_get {e : Partial} (hpos : pos.toNat < p.fifoN) (he : s.fifo[pos.toNat]? = some e) :
    execRdfifo pos s = answers s (recordFor p .ok e.descriptor) := by
  rw [execRdfifo, if_neg (Nat.not_le.mpr hpos), he]
  rfl

end

theorem exec_rdfifo (pos : BitVec 8) (s : State) : exec (.rdfifo pos) s = execRdfifo pos s := rfl

/-- Settles O21, by where the position stands: past the FIFO, past its last entry, or at an entry, whose length of at most 576
fits the 10 bits of its field. -/
theorem rdfifoReturnsDescriptor : Obligations.RdfifoReturnsDescriptor := by
  unfold Obligations.RdfifoReturnsDescriptor
  intro pos s
  rw [exec_rdfifo]
  refine ⟨decodeWord_encodeT_rdfifo pos, fun hpast => execRdfifo_of_le hpast,
    fun hpos hlen => execRdfifo_of_length_le hpos hlen, fun e hpos he hlen => ⟨_, execRdfifo_of_get hpos he, ?_⟩⟩
  rw [Partial.toNat_descriptor, Nat.mod_eq_of_lt (by omega)]

/-! ## NOP, RESET and the reserved opcodes (R270 to R272) -/

theorem exec_nop (s : State) : exec .nop s = answers s (record .ok 0#32 .none) := rfl

theorem exec_reset (s : State) : exec .reset s = answers s.blockReset (record .ok 0#32 .none) := rfl

theorem illegalWord_answers (s : State) : illegalWord s = answers s (record .errOpcode 0#32 .none) := illegalWord_eq s

theorem sameBlock_blockReset (s : State) : sameBlock s.blockReset State.reset :=
  ⟨State.blockReset_sentence s, State.blockReset_fifo s, State.blockReset_payload s, State.blockReset_vessels s,
    State.blockReset_cfg s⟩

/-- Settles O18: NOP returns its record on the port and touches nothing else. -/
theorem nopReturnsOk : Obligations.NopReturnsOk := by
  unfold Obligations.NopReturnsOk
  exact ⟨by decide, exec_nop⟩

/-- Settles O19: RESET answers from the block at its reset values, which keeps only the two queues of the port. -/
theorem resetCommandEqualsPowerOn : Obligations.ResetCommandEqualsPowerOn := by
  unfold Obligations.ResetCommandEqualsPowerOn
  refine ⟨by decide, fun s => ⟨s.blockReset, exec_reset s, sameBlock_blockReset s, ?_, ?_⟩⟩
  · exact State.blockReset_pending s
  · exact State.blockReset_results s

/-- Settles O20: neither reserved opcode is a command of the table, so each executes as an illegal word. -/
theorem reservedOpcodesReturnErrOpcode : Obligations.ReservedOpcodesReturnErrOpcode := by
  unfold Obligations.ReservedOpcodesReturnErrOpcode
  intro rest s
  rw [exec_of_not_wellFormed (i := .reservedE rest) rfl, exec_of_not_wellFormed (i := .reservedF rest) rfl]
  exact ⟨illegalWord_answers s, illegalWord_answers s⟩

end Sys2Proof.Machine
end

section
/-! PROOFS. What an error leaves behind (R294): the block as it was, or with the sentence reset where a DECODE closes it. -/

namespace Sys2Proof.Machine
open Sys2Proof.Claims

/-! ## Where an error leaves the block -/

/-- The outcome `o` of a command run on `s` is an answer, and the block is at `u` where the answer is an error. -/
def ErrorLeaves (u s : State) (o : Host.Outcome State Fault Refusal) : Prop :=
  ∃ (v : State) (r : Result), o = answers v r ∧ v.results = s.results ∧ (r.status.isError = true → v = u)

section
variable {s t u v : State} {o : Host.Outcome State Fault Refusal} {r : Result}

theorem errorLeaves_answers (r : Result) (hres : u.results = s.results) : ErrorLeaves u s (answers u r) :=
  ⟨u, r, rfl, hres, fun _ => rfl⟩

theorem errorLeaves_of_no_error (hok : r.status.isError = false) (hres : v.results = s.results) :
    ErrorLeaves u s (answers v r) :=
  ⟨v, r, rfl, hres, fun herr => absurd (hok.symm.trans herr) Bool.false_ne_true⟩

/-- The record a command adds is the one it answers with, so an error record pins the whole next state. -/
theorem ErrorLeaves.next_eq (h : ErrorLeaves u s o) (hnext : o = .next t) (hres : t.results = s.results ++ [r])
    (herr : r.status.isError = true) : t = { u with results := s.results ++ [r] } := by
  obtain ⟨v, r', rfl, hv, hu⟩ := h
  obtain rfl := Host.Outcome.next.inj hnext
  have hr : r' = r := by simpa [hv] using hres
  subst hr
  rw [← hu herr, hv]

end

/-! ## The commands other than DECODE -/

/-- An error leaves the block as it was: a read or a refused command writes nothing, and a command that writes answers OK. -/
theorem exec_errorLeaves {i : Instr} (hi : ∀ c, i ≠ .decode c) (s : State) : ErrorLeaves s s (exec i s) := by
  by_cases hread : i.readsOnly = true
  · obtain ⟨r, heq⟩ := exec_of_readsOnly hread s
    rw [heq]
    exact errorLeaves_answers r rfl
  cases i with
  | reset =>
    rw [exec_reset]
    exact errorLeaves_of_no_error rfl (State.blockReset_results s)
  | decode c => exact absurd rfl (hi c)
  | setcfg timeout listmax =>
    rw [exec_setcfg]
    obtain hle | hgt := le_or_gt listmax.toNat hardware.vslots
    · rw [execSetcfg_of_le timeout hle]
      exact errorLeaves_of_no_error rfl rfl
    · rw [execSetcfg_of_gt timeout hgt]
      exact errorLeaves_answers _ rfl
  | touch slot t =>
    rw [exec_touch]
    by_cases hfree : slot.toNat < hardware.vslots ∧ slot.toNat < s.cfg.listmax.toNat
    · rw [execTouch_of_lt t hfree.1 hfree.2]
      exact errorLeaves_of_no_error rfl (State.setSlot_results ..)
    · rw [execTouch_of_le t (by omega)]
      exact errorLeaves_answers _ rfl
  | tick now =>
    rw [exec_tick, execTick_eq]
    exact errorLeaves_of_no_error rfl rfl
  | nop | c6 _ | getu _ _ | gets _ _ | getc _ _ | age _ _ | rdslot _ | rdfifo _ | rdpr | reservedE _ | reservedF _ =>
    exact absurd rfl hread

/-! ## DECODE -/

/-- A valid sentence answers FRAGMENT, which is no error, and a failed one is reset and reported (R130). -/
theorem closeSentence_errorLeaves (s : State) :
    ErrorLeaves { s with sentence := resetSentence true } s (closeSentence s) := by
  obtain ⟨-, heq⟩ | ⟨-, heq⟩ := closeSentence_cases s <;> rw [heq]
  · exact errorLeaves_of_no_error rfl rfl
  · exact errorLeaves_answers _ rfl

/-- Only the close of a sentence answers an error: every other byte answers OK (R125). -/
theorem execDecode_errorLeaves (c : Byte) (s : State) :
    ErrorLeaves { s with sentence := resetSentence true } s (execDecode c s) := by
  obtain ⟨x, heq⟩ | ⟨-, -, heq⟩ := execDecode_cases c s <;> rw [heq]
  · exact errorLeaves_of_no_error rfl rfl
  · exact closeSentence_errorLeaves s

/-- Settles O14: the error record pins the next state, at the block as it was or, for a DECODE, at the reset sentence. -/
theorem errorsWriteNoState : Obligations.ErrorsWriteNoState := by
  unfold Obligations.ErrorsWriteNoState
  refine ⟨fun i s t r hexec hres herr => ⟨fun hi => ?_, ?_⟩, fun s w rest why hp hd => ?_⟩
  · exact (exec_errorLeaves hi s).next_eq hexec hres herr
  · rintro c rfl
    exact (execDecode_errorLeaves c s).next_eq hexec hres herr
  · exact (step_of_illegal hp hd).trans (illegalWord_answers _)

end Sys2Proof.Machine
end

section
/-! PROOFS. The decoder and the encoder undo each other, command by command and word by word (R81 to R89). -/

namespace Sys2Proof

/-! ## Every command decodes from its word -/

/-- A word of format N sets no reserved bit of its format. -/
theorem encodeN_and_reservedN (op : BitVec 4) : encodeN op &&& reservedN = 0#64 := by
  rw [and_eq_zero_iff]
  intro i hi hreserved
  rw [getLsbD_reservedN i hi, decide_eq_true_eq] at hreserved
  rw [getLsbD_encodeN, if_pos (by omega)]

theorem decodeWord_encodeN_nop : decodeWord (encodeN 0x0#4) = .instr .nop := by
  simp [decodeWord, decodeWith, encodeN_and_reservedN]

theorem decodeWord_encodeN_reset : decodeWord (encodeN 0x1#4) = .instr .reset := by
  simp [decodeWord, decodeWith, encodeN_and_reservedN]

theorem decodeWord_encodeN_rdpr : decodeWord (encodeN 0xD#4) = .instr .rdpr := by
  simp [decodeWord, decodeWith, encodeN_and_reservedN]

theorem decodeWord_encodeB_decode (c : Byte) : decodeWord (encodeB 0x2#4 c) = .instr (.decode c) := by
  simp [decodeWord, decodeWith, encodeB_and_reservedB]

theorem decodeWord_reservedE (rest : BitVec 60) : decodeWord (0xE#4 ++ rest : BitVec 64) = .instr (.reservedE rest) := by
  have hop : (fieldOp (0xE#4 ++ rest : BitVec 64)).toNat = 0xE := by rw [fieldOp_word]; rfl
  simp only [decodeWord, hop, fieldRest_word]

theorem decodeWord_reservedF (rest : BitVec 60) : decodeWord (0xF#4 ++ rest : BitVec 64) = .instr (.reservedF rest) := by
  have hop : (fieldOp (0xF#4 ++ rest : BitVec 64)).toNat = 0xF := by rw [fieldOp_word]; rfl
  simp only [decodeWord, hop, fieldRest_word]

theorem decodeWord_encode (i : Instr) : decodeWord (encode i) = .instr i := by
  cases i with
  | nop => exact decodeWord_encodeN_nop
  | reset => exact decodeWord_encodeN_reset
  | decode c => exact decodeWord_encodeB_decode c
  | c6 c => exact decodeWord_encodeB_c6 c
  | getu lo hi => exact decodeWord_encodeX_getu lo hi
  | gets lo hi => exact decodeWord_encodeX_gets lo hi
  | getc lo hi => exact decodeWord_encodeX_getc lo hi
  | setcfg timeout listmax => exact decodeWord_encodeG_setcfg timeout listmax
  | touch slot t => exact decodeWord_encodeT_touch slot t
  | age slot now => exact decodeWord_encodeT_age slot now
  | tick now => exact decodeWord_encodeT_tick now
  | rdslot slot => exact decodeWord_encodeT_rdslot slot
  | rdfifo pos => exact Machine.decodeWord_encodeT_rdfifo pos
  | rdpr => exact decodeWord_encodeN_rdpr
  | reservedE rest => exact decodeWord_reservedE rest
  | reservedF rest => exact decodeWord_reservedF rest

/-- Settles O4: the word of each format clears its reserved bits and gives each operand back. -/
theorem encodedCommandsDecodeBack : Obligations.EncodedCommandsDecodeBack := by
  unfold Obligations.EncodedCommandsDecodeBack
  exact decodeWord_encode

/-! ## Every word is the word of its fields -/

section
variable {w : CmdWord}

/-- Reading a bit back from the opcode field. -/
theorem getLsbD_fieldOp {i : Nat} (hlow : 60 ≤ i) (hi : i < 64) : (fieldOp w).getLsbD (i - 60) = w.getLsbD i := by
  have hop : i - 60 < 4 := by omega
  have hback : 60 + (i - 60) = i := by omega
  simp [fieldOp, hop, hback]

/-- A word is its opcode above its 60 other bits. -/
theorem fieldOp_append_fieldRest (w : CmdWord) : (fieldOp w ++ fieldRest w : BitVec 64) = w := by
  refine BitVec.eq_of_getLsbD_eq fun i hi => ?_
  rw [getLsbD_word]
  split_ifs with h60
  · simp [fieldRest, h60]
  · exact getLsbD_fieldOp (by omega) hi

/-- A word with no reserved bit of format N is the word of its opcode. -/
theorem encodeN_fields (h : w &&& reservedN = 0#64) : encodeN (fieldOp w) = w := by
  rw [and_eq_zero_iff] at h
  refine BitVec.eq_of_getLsbD_eq fun i hi => ?_
  rw [getLsbD_encodeN]
  split_ifs with h60
  · exact (h i hi (by rw [getLsbD_reservedN i hi]; exact decide_eq_true (by omega))).symm
  · exact getLsbD_fieldOp (by omega) hi

theorem encodeB_fields (h : w &&& reservedB = 0#64) : encodeB (fieldOp w) (fieldC w) = w := by
  rw [and_eq_zero_iff] at h
  refine BitVec.eq_of_getLsbD_eq fun i hi => ?_
  rw [getLsbD_encodeB]
  split_ifs with h8 h60
  · simp [fieldC, h8]
  · exact (h i hi (by rw [getLsbD_reservedB i hi]; exact decide_eq_true (by omega))).symm
  · exact getLsbD_fieldOp (by omega) hi

theorem encodeX_fields (h : w &&& reservedX = 0#64) : encodeX (fieldOp w) (fieldLo w) (fieldHi w) = w := by
  rw [and_eq_zero_iff] at h
  have hclear {i : Nat} (hi : i < 64) (hr : 28 ≤ i ∧ i ≤ 59 ∨ 12 ≤ i ∧ i ≤ 15) : w.getLsbD i = false :=
    h i hi (by rw [getLsbD_reservedX i hi]; exact decide_eq_true hr)
  refine BitVec.eq_of_getLsbD_eq fun i hi => ?_
  rw [getLsbD_encodeX]
  split_ifs with h12 h16 h28 h60
  · simp [fieldLo, h12]
  · exact (hclear hi (by omega)).symm
  · have hback : 16 + (i - 16) = i := by omega
    simp [fieldHi, hback, show i - 16 < 12 by omega]
  · exact (hclear hi (by omega)).symm
  · exact getLsbD_fieldOp (by omega) hi

theorem encodeT_fields (h : w &&& reservedT = 0#64) : encodeT (fieldOp w) (fieldSlot w) (fieldT w) = w := by
  rw [and_eq_zero_iff] at h
  refine BitVec.eq_of_getLsbD_eq fun i hi => ?_
  rw [getLsbD_encodeT]
  split_ifs with h32 h40 h60
  · simp [fieldT, h32]
  · have hback : 32 + (i - 32) = i := by omega
    simp [fieldSlot, hback, show i - 32 < 8 by omega]
  · exact (h i hi (by rw [getLsbD_reservedT i hi]; exact decide_eq_true (by omega))).symm
  · exact getLsbD_fieldOp (by omega) hi

theorem encodeG_fields (h : w &&& reservedG = 0#64) :
    encodeG (fieldOp w) (fieldTimeout w) (fieldListmax w) = w := by
  rw [and_eq_zero_iff] at h
  refine BitVec.eq_of_getLsbD_eq fun i hi => ?_
  rw [getLsbD_encodeG]
  split_ifs with h16 h24 h60
  · simp [fieldTimeout, h16]
  · have hback : 16 + (i - 16) = i := by omega
    simp [fieldListmax, hback, show i - 16 < 8 by omega]
  · exact (h i hi (by rw [getLsbD_reservedG i hi]; exact decide_eq_true (by omega))).symm
  · exact getLsbD_fieldOp (by omega) hi

/-! ## What a decoded word passed -/

variable {i j : Instr}

theorem decodeWith_eq_instr_iff {mask : CmdWord} : decodeWith mask w j = .instr i ↔ w &&& mask = 0#64 ∧ j = i := by
  by_cases hm : w &&& mask = 0#64 <;> simp [decodeWith, hm]

theorem decodeTick_eq_instr_iff :
    decodeTick w = .instr i ↔ w &&& reservedT = 0#64 ∧ fieldSlot w = 0#8 ∧ .tick (fieldT w) = i := by
  by_cases hm : w &&& reservedT = 0#64 <;> by_cases hs : fieldSlot w = 0#8 <;> simp [decodeTick, hm, hs]

theorem decodeRead_eq_instr_iff :
    decodeRead w j = .instr i ↔ w &&& reservedT = 0#64 ∧ fieldT w = 0#32 ∧ j = i := by
  by_cases hm : w &&& reservedT = 0#64 <;> by_cases ht : fieldT w = 0#32 <;> simp [decodeRead, hm, ht]

theorem fieldOp_eq_of_toNat {n : Nat} (h : (fieldOp w).toNat = n) : fieldOp w = BitVec.ofNat 4 n := by
  rw [← h, BitVec.ofNat_toNat, BitVec.setWidth_eq]

theorem encode_of_decodeWord (h : decodeWord w = .instr i) : encode i = w := by
  have hlt := (fieldOp w).isLt
  unfold decodeWord at h
  split at h
  case h_1 hop | h_2 hop | h_14 hop =>
    obtain ⟨hm, rfl⟩ := decodeWith_eq_instr_iff.mp h
    rw [encode, ← encodeN_fields hm, fieldOp_eq_of_toNat hop]
  case h_3 hop | h_4 hop =>
    obtain ⟨hm, rfl⟩ := decodeWith_eq_instr_iff.mp h
    rw [encode, ← fieldOp_eq_of_toNat hop, encodeB_fields hm]
  case h_5 hop | h_6 hop | h_7 hop =>
    obtain ⟨hm, rfl⟩ := decodeWith_eq_instr_iff.mp h
    rw [encode, ← fieldOp_eq_of_toNat hop, encodeX_fields hm]
  case h_8 hop =>
    obtain ⟨hm, rfl⟩ := decodeWith_eq_instr_iff.mp h
    rw [encode, ← fieldOp_eq_of_toNat hop, encodeG_fields hm]
  case h_9 hop | h_10 hop =>
    obtain ⟨hm, rfl⟩ := decodeWith_eq_instr_iff.mp h
    rw [encode, ← fieldOp_eq_of_toNat hop, encodeT_fields hm]
  case h_11 hop =>
    obtain ⟨hm, hslot, rfl⟩ := decodeTick_eq_instr_iff.mp h
    rw [encode, ← fieldOp_eq_of_toNat hop, ← hslot, encodeT_fields hm]
  case h_12 hop | h_13 hop =>
    obtain ⟨hm, ht, rfl⟩ := decodeRead_eq_instr_iff.mp h
    rw [encode, ← fieldOp_eq_of_toNat hop, ← ht, encodeT_fields hm]
  case h_15 hop =>
    obtain rfl := Decoded.instr.inj h
    rw [encode, ← fieldOp_eq_of_toNat hop, fieldOp_append_fieldRest]
  case h_16 =>
    obtain rfl := Decoded.instr.inj h
    have hop : (fieldOp w).toNat = 0xF := by
      simp only [imp_false] at *
      omega
    rw [encode, ← fieldOp_eq_of_toNat hop, fieldOp_append_fieldRest]

end

/-- Settles O5: a decoded word sets no reserved bit, so it is the word of its opcode and its operands. -/
theorem decodedWordsEncodeBack : Obligations.DecodedWordsEncodeBack := by
  unfold Obligations.DecodedWordsEncodeBack
  intro w i
  exact encode_of_decodeWord

/-- Settles O6: each word is written out, so it is the encoding of its command. -/
theorem workedWordsDecode : Obligations.WorkedWordsDecode := by
  unfold Obligations.WorkedWordsDecode
  decide

end Sys2Proof
end

section
/-! PROOFS. The assembler: each line form's words as numbers, and the commands they decode to (R105, R106). -/

namespace Sys2Proof
open Sys2Proof.Machine Sys2Proof.Claims

/-! ## The words of each format as numbers -/

section
variable {op : BitVec 4}

/-- A word is the word with opcode `op` and the number of its other 60 bits. -/
theorem word_eq_asmWord {rest : BitVec 60} {n : Nat} (h : rest.toNat = n) :
    (op ++ rest : BitVec 64) = asmWord op.toNat n := by
  apply BitVec.eq_of_toNat_eq
  refine (toNat_append_eq_add op rest).trans ?_
  have hop := op.isLt
  have hrest := rest.isLt
  rw [BitVec.toNat_ofNat, h, Nat.mod_eq_of_lt (by omega)]

theorem encodeN_eq_asmWord : encodeN op = asmWord op.toNat 0 := word_eq_asmWord rfl

theorem encodeB_eq_asmWord (c : Byte) : encodeB op c = asmWord op.toNat c.toNat :=
  word_eq_asmWord ((toNat_append_eq_add 0#52 c).trans (by simp))

theorem encodeX_eq_asmWord (lo hi : BitVec 12) : encodeX op lo hi = asmWord op.toNat (hi.toNat * 2 ^ 16 + lo.toNat) := by
  refine word_eq_asmWord ((toNat_append_eq_add 0#32 (hi ++ (0#4 ++ lo))).trans ?_)
  rw [toNat_append_eq_add, toNat_append_eq_add]
  simp

theorem encodeT_eq_asmWord (slot : BitVec 8) (t : BitVec 32) :
    encodeT op slot t = asmWord op.toNat (slot.toNat * 2 ^ 32 + t.toNat) := by
  refine word_eq_asmWord ((toNat_append_eq_add 0#20 (slot ++ t)).trans ?_)
  rw [toNat_append_eq_add]
  simp

theorem encodeG_eq_asmWord (timeout : BitVec 16) (listmax : BitVec 8) :
    encodeG op timeout listmax = asmWord op.toNat (listmax.toNat * 2 ^ 16 + timeout.toNat) := by
  refine word_eq_asmWord ((toNat_append_eq_add 0#36 (listmax ++ timeout)).trans ?_)
  rw [toNat_append_eq_add]
  simp

end

end Sys2Proof

namespace Sys2Proof.Machine
open Sys2Proof.Claims

/-! ## A line of assembly -/

section
variable {l : AsmLine} {fits : Prop} {ws : List CmdWord}

theorem assemble_eq_some_iff : l.assemble = some ws ↔ l.fits = true ∧ l.expand.map encode = ws := by
  by_cases hf : l.fits = true <;> simp [AsmLine.assemble, hf]

/-- A line assembles to its words by the check of its operands and the encoding of its commands. -/
theorem assemblesTo_of_expand (hfits : l.fits = true ↔ fits) (hws : fits → l.expand.map encode = ws) :
    assemblesTo l fits ws := by
  constructor
  · intro h
    exact assemble_eq_some_iff.mpr ⟨hfits.mpr h, hws h⟩
  · intro h
    exact if_neg (h ∘ hfits.mp)

/-- A line form without operands that can misfit. -/
theorem assemblesTo_true (hfits : l.fits = true) (hws : l.expand.map encode = ws) : assemblesTo l True ws :=
  assemblesTo_of_expand (iff_true_intro hfits) fun _ => hws

/-- A line form of one command. -/
theorem assemblesTo_single {i : Instr} {w : CmdWord} (hfits : l.fits = true ↔ fits) (hexpand : l.expand = [i])
    (hw : fits → encode i = w) : assemblesTo l fits [w] :=
  assemblesTo_of_expand hfits fun h => by rw [hexpand, List.map_singleton, hw h]

end

/-- An operand that fits its field keeps its value. -/
theorem toNat_ofNat_of_lt {n w : Nat} (h : n < 2 ^ w) : (BitVec.ofNat w n).toNat = n := Nat.mod_eq_of_lt h

section
variable {op : BitVec 4}

theorem encodeB_ofNat {c : Nat} (h : c < 256) : encodeB op (BitVec.ofNat 8 c) = asmWord op.toNat c := by
  rw [encodeB_eq_asmWord, toNat_ofNat_of_lt h]

theorem encodeX_ofNat {lo hi : Nat} (h : lo < 4096 ∧ hi < 4096) :
    encodeX op (BitVec.ofNat 12 lo) (BitVec.ofNat 12 hi) = asmWord op.toNat (hi * 2 ^ 16 + lo) := by
  rw [encodeX_eq_asmWord, toNat_ofNat_of_lt h.2, toNat_ofNat_of_lt h.1]

theorem encodeT_ofNat {slot t : Nat} (h : slot < 256 ∧ t < 4294967296) :
    encodeT op (BitVec.ofNat 8 slot) (BitVec.ofNat 32 t) = asmWord op.toNat (slot * 2 ^ 32 + t) := by
  rw [encodeT_eq_asmWord, toNat_ofNat_of_lt h.1, toNat_ofNat_of_lt h.2]

theorem encodeG_ofNat {timeout listmax : Nat} (h : timeout < 65536 ∧ listmax < 256) :
    encodeG op (BitVec.ofNat 16 timeout) (BitVec.ofNat 8 listmax) = asmWord op.toNat (listmax * 2 ^ 16 + timeout) := by
  rw [encodeG_eq_asmWord, toNat_ofNat_of_lt h.2, toNat_ofNat_of_lt h.1]

/-- A format T word whose SLOT field is not an operand. -/
theorem encodeT_zero_ofNat {t : Nat} (h : t < 4294967296) :
    encodeT op 0#8 (BitVec.ofNat 32 t) = asmWord op.toNat t := by
  simpa using encodeT_ofNat (op := op) (slot := 0) ⟨by decide, h⟩

/-- A format T word whose T field is not an operand. -/
theorem encodeT_ofNat_zero {slot : Nat} (h : slot < 256) :
    encodeT op (BitVec.ofNat 8 slot) 0#32 = asmWord op.toNat (slot * 2 ^ 32) := by
  simpa using encodeT_ofNat (op := op) (t := 0) ⟨h, by decide⟩

end

/-! ## FEED and SENT (R106) -/

theorem map_encode_feedInstrs (bytes : List Byte) : (feedInstrs bytes).map encode = decodeWords bytes := by
  rw [feedInstrs, List.map_map]
  exact List.map_congr_left fun c _ => encodeB_eq_asmWord c

/-- The digit written for a number below 16 reads back as it (R140). -/
theorem hexDigit_hexChar {n : Nat} (h : n < 16) : hexDigit (hexChar n) = some n := by
  rw [hexDigit_eq_some_iff]
  unfold hexChar
  split_ifs with h10 <;> rw [toNat_ofNat_of_lt (by omega)] <;> omega

/-- The two digits SENT writes for a byte are a checksum field of its value. -/
theorem hexField_hexPair (b : Byte) : hexField (hexPair b) b.toNat := by
  have hb := b.isLt
  refine ⟨_, _, b.toNat / 16, b.toNat % 16, rfl, ?_, ?_, by omega⟩
  · exact hexDigit_hexChar (by omega)
  · exact hexDigit_hexChar (by omega)

theorem fits_sent_iff (m : Byte) (body : List Byte) : (AsmLine.sent m body).fits = true ↔ m = 0x21#8 ∨ m = 0x24#8 :=
  decide_eq_true_iff

/-- The words of a line decode to its commands, since each is the encoding of one (R105). -/
theorem map_decodeWord_of_assemble {l : AsmLine} {ws : List CmdWord} (h : l.assemble = some ws) :
    ws.map decodeWord = l.expand.map Decoded.instr := by
  obtain ⟨-, rfl⟩ := assemble_eq_some_iff.mp h
  rw [List.map_map]
  exact List.map_congr_left fun i _ => decodeWord_encode i

/-- Settles O8: each line form is checked by `fits` and its command's word is the number of its fields. -/
theorem assembledLinesDecodeToTheirCommands : Obligations.AssembledLinesDecodeToTheirCommands := by
  unfold Obligations.AssembledLinesDecodeToTheirCommands
  refine ⟨?nop, ?reset, ?decode, ?c6, ?getu, ?gets, ?getc, ?setcfg, ?touch, ?age, ?tick, ?rdslot, ?rdfifo, ?rdpr,
    ?feed, ?sent, ?expect, fun l ws => map_decodeWord_of_assemble⟩
  case nop | reset | rdpr => exact assemblesTo_true rfl (congrArg (fun w => [w]) encodeN_eq_asmWord)
  case decode | c6 =>
    intro c
    exact assemblesTo_single decide_eq_true_iff rfl encodeB_ofNat
  case getu | gets | getc =>
    intro lo hi
    exact assemblesTo_single decide_eq_true_iff rfl encodeX_ofNat
  case setcfg =>
    intro timeout listmax
    exact assemblesTo_single decide_eq_true_iff rfl encodeG_ofNat
  case touch | age =>
    intro slot t
    exact assemblesTo_single decide_eq_true_iff rfl encodeT_ofNat
  case tick =>
    intro now
    exact assemblesTo_single decide_eq_true_iff rfl encodeT_zero_ofNat
  case rdslot | rdfifo =>
    intro slot
    exact assemblesTo_single decide_eq_true_iff rfl encodeT_ofNat_zero
  case feed =>
    intro bytes
    exact assemblesTo_true rfl (map_encode_feedInstrs bytes)
  case sent =>
    intro m body
    refine ⟨_, _, hexField_hexPair (xorBytes body), assemblesTo_of_expand (fits_sent_iff m body) fun _ => ?_⟩
    have hbytes : sentBytes m body = m :: (body ++ 0x2A#8 :: (hexPair (xorBytes body) ++ [0x0D#8, 0x0A#8])) := by
      simp [sentBytes]
    rw [AsmLine.expand, map_encode_feedInstrs, hbytes]
    rfl
  case expect =>
    intro status
    exact assemblesTo_true rfl rfl

end Sys2Proof.Machine
end

section
/-! PROOFS. One DECODE as a step of the sentence, and all it does to the rest of the block (R120 to R130, R145). -/

namespace Sys2Proof.Machine
open Sys2Proof.Claims

/-! ## The sentence after a byte -/

/-- The sentence after a DECODE of `c` (R121, R122, R126 to R130). `exec_decode_effect` ties it to the command. -/
def Sentence.next (x : Sentence) (c : Byte) : Sentence :=
  match classify c with
  | .start => sentenceReset false
  | .ordinary => if x.fr.done then x else ordinary c x
  | .comma => if x.fr.done then x else comma x
  | .star => if x.fr.done then x else star x
  | .terminator => if x.fr.done then x else sentenceReset true

/-- The byte `c` closes the sentence `x` as a valid one (R130). -/
structure Sentence.Accepts (x : Sentence) (c : Byte) : Prop where
  terminator : classify c = .terminator
  busy : x.fr.done = false
  valid : (closeCheck x).fr.why = .ok

section
variable {x : Sentence} {c : Byte}

theorem next_of_start (hc : classify c = .start) : x.next c = sentenceReset false := by simp [Sentence.next, hc]

theorem next_of_idle (hc : classify c ≠ .start) (hd : x.fr.done = true) : x.next c = x := by
  unfold Sentence.next
  cases hk : classify c with
  | start => exact absurd hk hc
  | ordinary | comma | star | terminator => exact if_pos hd

theorem next_of_ordinary (hc : classify c = .ordinary) (hd : x.fr.done = false) : x.next c = ordinary c x := by
  simp [Sentence.next, hc, hd]

theorem next_of_comma (hc : classify c = .comma) (hd : x.fr.done = false) : x.next c = comma x := by
  simp [Sentence.next, hc, hd]

theorem next_of_star (hc : classify c = .star) (hd : x.fr.done = false) : x.next c = star x := by
  simp [Sentence.next, hc, hd]

theorem next_of_terminator (hc : classify c = .terminator) (hd : x.fr.done = false) : x.next c = sentenceReset true := by
  simp [Sentence.next, hc, hd]

theorem not_accepts_of_not_terminator (hc : classify c ≠ .terminator) : ¬ x.Accepts c := fun h => hc h.terminator

end

theorem classify_eq_terminator_iff {c : Byte} : classify c = .terminator ↔ c = 0x0D#8 ∨ c = 0x0A#8 := by
  refine ⟨fun h => ?_, classify_of_terminator⟩
  unfold classify at h
  split_ifs at h with _ _ _ hterm
  exact hterm

/-! ## ACCEPT reads no payload register (R145) -/

/-- What ACCEPT leaves depends on the fragment and the FIFO: it loads the payload register or keeps it. -/
theorem accept_uniform (f : Fragment) (fifo : List Partial) :
    ∃ (fifo' : List Partial) (loaded : Option Payload) (o : Rstat),
      ∀ pr, accept f fifo pr = { fifo := fifo', payload := loaded.getD pr, rstat := o } := by
  by_cases hsingle : f.total = 1#4
  · exact ⟨fifo, some (loadPr f.pay f.fill), .single, fun _ => if_pos hsingle⟩
  obtain hnew | ⟨front, e, rest, rfl, hfront, hid⟩ := fifo_split f.id fifo
  · have haccept (pr : Payload) := accept_of_new pr hardware hsingle hnew
    by_cases hfull : fifo.length = hardware.fifoN
    · exact ⟨_, none, _, fun pr => (haccept pr).trans (acceptNew_of_full f pr hfull)⟩
    · exact ⟨_, none, _, fun pr => (haccept pr).trans (acceptNew_of_room f pr hfull)⟩
  · have haccept (pr : Payload) := accept_of_match pr hardware hsingle hfront (rest := rest) hid
    by_cases hnext : f.num = e.next ∧ f.total = e.total
    · obtain ⟨hnum, htotal⟩ := hnext
      by_cases hlast : e.cnt + 1#4 = e.total
      · exact ⟨_, some _, _, fun pr => (haccept pr).trans (acceptMatch_of_last pr hnum htotal hlast)⟩
      · exact ⟨_, none, _, fun pr => (haccept pr).trans (acceptMatch_of_not_last pr hnum htotal hlast)⟩
    · exact ⟨_, none, _, fun pr => (haccept pr).trans (acceptMatch_of_outOfSequence pr (not_and_or.mp hnext))⟩

/-! ## One DECODE -/

/-- A byte that closes nothing moves the sentence and returns `(OK, 0, R_NONE)` (R125). -/
theorem exec_decode_of_not_close {c : Byte} {s : State}
    (h : classify c ≠ .terminator ∨ s.sentence.fr.done = true) :
    exec (.decode c) s = answers { s with sentence := s.sentence.next c } (record .ok 0#32 .none) := by
  rw [exec_decode]
  by_cases hs : classify c = .start
  · rw [execDecode_start hs, next_of_start hs]; rfl
  cases hd : s.sentence.fr.done with
  | true => rw [execDecode_idle hs hd, next_of_idle hs hd]; rfl
  | false =>
    cases hc : classify c with
    | start => exact absurd hc hs
    | ordinary => rw [execDecode_ordinary hc hd, next_of_ordinary hc hd]; rfl
    | comma => rw [execDecode_comma hc hd, next_of_comma hc hd]; rfl
    | star => rw [execDecode_star hc hd, next_of_star hc hd]; rfl
    | terminator => simp [hc, hd] at h

/-- The effect of a DECODE of `c` on a sentence `x` and a FIFO: the FIFO it leaves, the payload it loads, its result. -/
structure DecodeEffect (c : Byte) (x : Sentence) (fifo fifo' : List Partial) (loaded : Option Payload) (r : Result) :
    Prop where
  /-- It is the same whatever the other state groups hold (R145). -/
  exec_eq : ∀ s : State, s.sentence = x → s.fifo = fifo → exec (.decode c) s =
    answers { s with sentence := x.next c, fifo := fifo', payload := loaded.getD s.payload } r
  fragment_iff : r.status = .fragment ↔ x.Accepts c
  keeps : r.status ≠ .fragment → fifo' = fifo ∧ loaded = none
  quiet : classify c ≠ .terminator ∨ x.fr.done = true → r = record .ok 0#32 .none
  failed : classify c = .terminator → x.fr.done = false → (closeCheck x).fr.why ≠ .ok →
    r = record (closeCheck x).fr.why.closeStatus 0#32 .none
  plain : ∃ st o, r = record st 0#32 o ∧ st ∈ (Instr.decode c).mayReturn ∧ (st.isError = true → o = .none)

theorem closeStatus_mem_mayReturn (why : Cause) (c : Byte) : why.closeStatus ∈ (Instr.decode c).mayReturn := by
  cases why <;> simp [Cause.closeStatus, Instr.mayReturn]

theorem closeStatus_eq_fragment_iff {why : Cause} : why.closeStatus = .fragment ↔ why = .ok := by
  cases why <;> simp [Cause.closeStatus]

section
variable {c : Byte} {x : Sentence} (fifo : List Partial)

theorem decodeEffect_of_not_close (h : classify c ≠ .terminator ∨ x.fr.done = true) :
    DecodeEffect c x fifo fifo none (record .ok 0#32 .none) where
  exec_eq := by
    rintro s rfl rfl
    exact exec_decode_of_not_close h
  fragment_iff := ⟨fun hst => (nomatch hst), fun ha => by simp [ha.terminator, ha.busy] at h⟩
  keeps _ := ⟨rfl, rfl⟩
  quiet _ := rfl
  failed hc hd := by simp [hc, hd] at h
  plain := ⟨.ok, .none, rfl, by simp [Instr.mayReturn], fun _ => rfl⟩

section
variable (hc : classify c = .terminator) (hd : x.fr.done = false)
include hc hd

theorem decodeEffect_of_valid (hvalid : (closeCheck x).fr.why = .ok) :
    ∃ fifo' loaded o, DecodeEffect c x fifo fifo' loaded (record .fragment 0#32 o) := by
  obtain ⟨fifo', loaded, o, haccept⟩ := accept_uniform (closeCheck x).st.fragment fifo
  refine ⟨fifo', loaded, o, ?_⟩
  exact
    { exec_eq := by
        rintro s rfl rfl
        rw [exec_decode, execDecode_terminator hc hd, next_of_terminator hc hd]
        obtain ⟨-, heq⟩ | ⟨hbad, -⟩ := closeSentence_cases s
        · rw [heq, haccept s.payload]; rfl
        · exact absurd hvalid hbad
      fragment_iff := iff_of_true rfl ⟨hc, hd, hvalid⟩
      keeps := fun h => absurd rfl h
      quiet := by simp [hc, hd]
      failed := fun _ _ h => absurd hvalid h
      plain := ⟨.fragment, o, rfl, closeStatus_mem_mayReturn .ok c, nofun⟩ }

theorem decodeEffect_of_failed (hbad : (closeCheck x).fr.why ≠ .ok) :
    DecodeEffect c x fifo fifo none (record (closeCheck x).fr.why.closeStatus 0#32 .none) where
  exec_eq := by
    rintro s rfl rfl
    rw [exec_decode, execDecode_terminator hc hd, next_of_terminator hc hd]
    exact closeSentence_of_cause rfl hbad
  fragment_iff := ⟨fun hst => absurd (closeStatus_eq_fragment_iff.mp hst) hbad, fun ha => absurd ha.valid hbad⟩
  keeps _ := ⟨rfl, rfl⟩
  quiet := by simp [hc, hd]
  failed _ _ _ := rfl
  plain := ⟨_, _, rfl, closeStatus_mem_mayReturn _ c, fun _ => rfl⟩

end

theorem exec_decode_effect (c : Byte) (x : Sentence) (fifo : List Partial) :
    ∃ fifo' loaded r, DecodeEffect c x fifo fifo' loaded r := by
  by_cases hopen : classify c ≠ .terminator ∨ x.fr.done = true
  · exact ⟨_, _, _, decodeEffect_of_not_close fifo hopen⟩
  · simp only [not_or, not_not, Bool.not_eq_true] at hopen
    obtain ⟨hc, hd⟩ := hopen
    by_cases hvalid : (closeCheck x).fr.why = .ok
    · obtain ⟨fifo', loaded, o, heff⟩ := decodeEffect_of_valid fifo hc hd hvalid
      exact ⟨_, _, _, heff⟩
    · exact ⟨_, _, _, decodeEffect_of_failed fifo hc hd hvalid⟩

end

/-- Settles O46: outside a FRAGMENT close the effect keeps the FIFO and loads no payload. -/
theorem decodeFrame : Obligations.DecodeFrame := by
  unfold Obligations.DecodeFrame
  intro c s
  obtain ⟨fifo', loaded, r, heff⟩ := exec_decode_effect c s.sentence s.fifo
  refine ⟨_, r, heff.exec_eq s rfl rfl, rfl, rfl, rfl, rfl, fun hne => ?_, fun h => heff.quiet ?_⟩
  · obtain ⟨rfl, rfl⟩ := heff.keeps hne
    exact ⟨rfl, rfl⟩
  · rwa [Ne, classify_eq_terminator_iff, not_or]

/-- Settles O47: both states have the one effect of their framer and FIFO. -/
theorem decodeDependsOnFramerAndFifoOnly : Obligations.DecodeDependsOnFramerAndFifoOnly := by
  unfold Obligations.DecodeDependsOnFramerAndFifoOnly
  intro c s t hsentence hfifo
  obtain ⟨fifo', loaded, r, heff⟩ := exec_decode_effect c s.sentence s.fifo
  refine ⟨_, _, r, heff.exec_eq s rfl rfl, heff.exec_eq t hsentence.symm hfifo.symm, rfl, rfl, rfl, rfl, ?_⟩
  cases loaded with
  | none => exact .inr ⟨rfl, rfl⟩
  | some pr => exact .inl rfl

/-! ## The fragment of a FRAGMENT close (R142) -/

/-- An ordinary byte frames nothing. -/
theorem bodyByte_of_ordinary {c : Byte} (h : classify c = .ordinary) : bodyByte c ∧ c ≠ 0x2C#8 := by
  refine ⟨⟨?_, ?_, ?_, ?_, ?_⟩, ?_⟩ <;> rintro rfl <;> exact absurd h (by decide)

/-- Settles O48: the close passes only with seven completed terms and no failure, and the invariant says what they left. -/
theorem closedFragmentIsWellFormed : Obligations.ClosedFragmentIsWellFormed := by
  unfold Obligations.ClosedFragmentIsWellFormed
  intro c s t r hinv hexec hres hstatus
  obtain ⟨fifo', loaded, r', heff⟩ := exec_decode_effect c s.sentence s.fifo
  rw [heff.exec_eq s rfl rfl] at hexec
  obtain rfl := Host.Outcome.next.inj hexec
  obtain rfl : r' = r := by simpa using hres
  have hvalid := (heff.fragment_iff.mp hstatus).valid
  obtain ⟨hcks, hwhy, -⟩ := closeCheck_ok hvalid
  obtain ⟨hseven, -, hnum, hidp, hpay⟩ := hinv.sentence.parsed hwhy
  have hsix : s.sentence.fr.tidx.toNat = 6 := congrArg BitVec.toNat (hseven hcks)
  obtain ⟨htotal, hnumle, -, hbound, hplain, hfill⟩ := hinv.sentence.legal
  exact ⟨hnum (by omega), hnumle, htotal, hidp (by omega), List.length_pos_iff.mpr (hpay (by omega)), hbound,
    fun b hb => bodyByte_of_ordinary (hplain b hb), hfill⟩

end Sys2Proof.Machine
end

section
/-! PROOFS. The effect of every command: the one result it returns, the groups it writes, and that neither depends on the
queues of the port (R47, R70, R94, R292). -/

namespace Sys2Proof.Machine
open Sys2Proof.Claims

/-! ## What a command may return and write -/

/-- The record is one that command `i` may return (R94, R292). -/
structure Result.RecordOf (r : Result) (i : Instr) : Prop where
  status : r.status ∈ i.mayReturn
  length : r.str.length = 20
  error : r.status.isError = true → r = record r.status 0#32 .none
  rstat : (∀ c, i ≠ .decode c) → r.rstat = .none
  str : (∀ lo hi, i ≠ .getc lo hi) → r.str = List.replicate 20 0x00#8

section
variable {i : Instr} {st : Status}

theorem recordOf_ok (h : Status.ok ∈ i.mayReturn) (v : Value) : (record .ok v .none).RecordOf i :=
  ⟨h, List.length_replicate, nofun, fun _ => rfl, fun _ => rfl⟩

theorem recordOf_error (h : st ∈ i.mayReturn) : (record st 0#32 .none).RecordOf i :=
  ⟨h, List.length_replicate, fun _ => rfl, fun _ => rfl, fun _ => rfl⟩

end

/-- `u` differs from `s` in no state group that command `i` may not write (R47). -/
structure State.KeepsGroups (s u : State) (i : Instr) : Prop where
  decoder : (∀ c, i ≠ .decode c) → i ≠ .reset → u.sentence = s.sentence ∧ u.fifo = s.fifo ∧ u.payload = s.payload
  vessels : (∀ slot t, i ≠ .touch slot t) → (∀ now, i ≠ .tick now) → i ≠ .reset → u.vessels = s.vessels
  cfg : (∀ timeout listmax, i ≠ .setcfg timeout listmax) → i ≠ .reset → u.cfg = s.cfg

theorem State.KeepsGroups.refl (s : State) (i : Instr) : s.KeepsGroups s i :=
  ⟨fun _ _ => ⟨rfl, rfl, rfl⟩, fun _ _ _ => rfl, fun _ _ => rfl⟩

/-- `s` with other queues on the port. -/
def State.setPort (s : State) (ws : List CmdWord) (rs : List Result) : State := { s with pending := ws, results := rs }

/-- Command `i` takes the block of `s` to that of `u` and returns `r`, whatever the queues of the port hold. -/
structure Effect (i : Instr) (s u : State) (r : Result) : Prop where
  exec_eq : ∀ ws rs, exec i (s.setPort ws rs) = answers (u.setPort ws rs) r
  record : r.RecordOf i
  keeps : s.KeepsGroups u i

/-- A command that changes no group. -/
theorem effect_of_unchanged {i : Instr} {s : State} {r : Result}
    (h : ∀ ws rs, exec i (s.setPort ws rs) = answers (s.setPort ws rs) r) (hr : r.RecordOf i) : Effect i s s r :=
  ⟨h, hr, .refl s i⟩

/-! ## The effect of each command -/

section
variable (s : State)

theorem effect_decode (c : Byte) : ∃ u r, Effect (.decode c) s u r := by
  obtain ⟨fifo', loaded, r, heff⟩ := exec_decode_effect c s.sentence s.fifo
  obtain ⟨st, o, rfl, hst, ho⟩ := heff.plain
  refine ⟨{ s with sentence := s.sentence.next c, fifo := fifo', payload := loaded.getD s.payload }, _,
    fun ws rs => heff.exec_eq (s.setPort ws rs) rfl rfl, ?_, ?_⟩
  · exact ⟨hst, List.length_replicate, fun herr => by rw [ho herr], fun h => absurd rfl (h c), fun _ => rfl⟩
  · exact ⟨fun h => absurd rfl (h c), fun _ _ _ => rfl, fun _ _ => rfl⟩

theorem effect_c6 (c : Byte) : ∃ u r, Effect (.c6 c) s u r := by
  cases hsix : six c with
  | none =>
    exact ⟨s, _, effect_of_unchanged (fun _ _ => exec_c6_of_not_armor hsix _) (recordOf_error (.tail _ (.head _)))⟩
  | some v =>
    have hv : six c = some (BitVec.ofNat 6 v.toNat) := by rw [hsix, BitVec.ofNat_toNat, BitVec.setWidth_eq]
    exact ⟨s, _, effect_of_unchanged (fun _ _ => exec_c6_of_armor hv v.isLt _) (recordOf_ok (.head _) _)⟩

/-- An extraction that reports its result or a failed check. -/
theorem effect_extract {i : Instr} {k : Kind} {lo hi : BitVec 12} {r : Result}
    (hexec : ∀ ws rs, exec i (s.setPort ws rs) = extract k lo hi r (s.setPort ws rs))
    (hrow : i.mayReturn = [.ok, .errNoPayload, .errArmor, .errRange, .errLength])
    (hr : xcheck k lo.toNat hi.toNat s.payload = .ok → r.RecordOf i) : ∃ u r, Effect i s u r := by
  by_cases hok : xcheck k lo.toNat hi.toNat s.payload = .ok
  · refine ⟨s, r, effect_of_unchanged (fun ws rs => ?_) (hr hok)⟩
    obtain ⟨-, heq⟩ | ⟨hbad, -⟩ := extract_cases k lo hi r (s.setPort ws rs)
    · exact (hexec ws rs).trans heq
    · exact absurd hok hbad
  · refine ⟨s, _, effect_of_unchanged (fun ws rs => ?_)
      (recordOf_error (hrow ▸ xcheck_mem k lo.toNat hi.toNat s.payload hardware))⟩
    obtain ⟨hgood, -⟩ | ⟨-, heq⟩ := extract_cases k lo hi r (s.setPort ws rs)
    · exact absurd hgood hok
    · exact (hexec ws rs).trans heq

/-- The checks pass only for a width within the limit of the kind (R205). -/
theorem widthOk_of_xcheck {k : Kind} {lo hi : Nat} {pr : Payload} {p : Params} (h : xcheck k lo hi pr p = .ok) :
    k.widthOk (hi - lo) p = true := by
  unfold xcheck at h
  split_ifs at h with _ _ _ hwidth _
  simpa using hwidth

theorem textChars_length (buf : List Byte) (lo n : Nat) : (textChars buf lo n).length = n := by simp [textChars]

/-- The record of a text of at most STR_MAX characters is padded to STR_MAX bytes (R94, R213). -/
theorem recordOf_textResult {t : List Byte} (h : t.length ≤ 20) (lo hi : BitVec 12) :
    (textResult t).RecordOf (.getc lo hi) where
  status := by simp [textResult, Instr.mayReturn]
  length := by
    have hpad : t.length + (20 - t.length) = 20 := by omega
    simpa [textResult] using hpad
  error := nofun
  rstat _ := rfl
  str h := absurd rfl (h lo hi)

theorem effect_getc (lo hi : BitVec 12) : ∃ u r, Effect (.getc lo hi) s u r := by
  refine effect_extract s (r := textResult (trimFill (textChars s.payload.buf lo.toNat ((hi.toNat - lo.toNat) / 6))))
    (fun ws rs => exec_getc lo hi (s.setPort ws rs)) rfl fun hok => recordOf_textResult ?_ lo hi
  have hwidth : (hi.toNat - lo.toNat) % 6 = 0 ∧ (hi.toNat - lo.toNat) / 6 ≤ 20 := by
    simpa [Kind.widthOk] using widthOk_of_xcheck hok
  exact (trimFill_length_le _).trans ((textChars_length ..).trans_le hwidth.2)

theorem effect_setcfg (timeout : BitVec 16) (listmax : BitVec 8) : ∃ u r, Effect (.setcfg timeout listmax) s u r := by
  obtain hle | hgt := le_or_gt listmax.toNat hardware.vslots
  · exact ⟨{ s with cfg := { timeout := seconds timeout, listmax := listmax } }, _,
      fun ws rs => execSetcfg_of_le (s := s.setPort ws rs) timeout hle, recordOf_ok (.head _) _,
      fun _ _ => ⟨rfl, rfl, rfl⟩, fun _ _ _ => rfl, fun h => absurd rfl (h timeout listmax)⟩
  · exact ⟨s, _, effect_of_unchanged (fun ws rs => execSetcfg_of_gt (s := s.setPort ws rs) timeout hgt)
      (recordOf_error (.tail _ (.head _)))⟩

theorem effect_touch (slot : BitVec 8) (t : BitVec 32) : ∃ u r, Effect (.touch slot t) s u r := by
  by_cases hfree : slot.toNat < hardware.vslots ∧ slot.toNat < s.cfg.listmax.toNat
  · exact ⟨s.setSlot slot.toNat { live := true, last := stamp t }, _,
      fun ws rs => execTouch_of_lt (s := s.setPort ws rs) t hfree.1 hfree.2, recordOf_ok (.head _) _,
      fun _ _ => ⟨rfl, rfl, rfl⟩, fun h => absurd rfl (h slot t), fun _ _ => rfl⟩
  · have hpast : hardware.vslots ≤ slot.toNat ∨ s.cfg.listmax.toNat ≤ slot.toNat := by omega
    exact ⟨s, _, effect_of_unchanged (fun ws rs => execTouch_of_le (s := s.setPort ws rs) t hpast)
      (recordOf_error (.tail _ (.head _)))⟩

theorem effect_tick (now : BitVec 32) : ∃ u r, Effect (.tick now) s u r :=
  ⟨{ s with vessels := mapSlots (sweepSlot s.cfg.timeout (stamp now)) s.vessels },
    record .ok (evictMask s.cfg.timeout (stamp now) s.vessels) .none,
    fun ws rs => execTick_eq now (s.setPort ws rs), recordOf_ok (.head _) _,
    fun _ _ => ⟨rfl, rfl, rfl⟩, fun _ h => absurd rfl (h now), fun _ _ => rfl⟩

/-- Every position below VSLOTS holds a slot. -/
theorem exists_vessels_get {p : Params} (s : State p) {k : Nat} (h : k < p.vslots) : ∃ x, s.vessels[k]? = some x :=
  ⟨_, Vector.getElem?_eq_getElem h⟩

theorem effect_age (slot : BitVec 8) (now : BitVec 32) : ∃ u r, Effect (.age slot now) s u r := by
  obtain hlt | hle := lt_or_ge slot.toNat hardware.vslots
  · obtain ⟨x, hx⟩ := exists_vessels_get s hlt
    exact ⟨s, record .ok (ageValue x.live (ageExceeds s.cfg.timeout (stamp now) x.last)) .none,
      effect_of_unchanged (fun ws rs => execAge_of_get (s := s.setPort ws rs) now hx)
        (recordOf_ok (.head _) _)⟩
  · exact ⟨s, _, effect_of_unchanged (fun ws rs => execAge_of_le (s := s.setPort ws rs) now hle)
      (recordOf_error (.tail _ (.head _)))⟩

theorem effect_rdslot (slot : BitVec 8) : ∃ u r, Effect (.rdslot slot) s u r := by
  obtain hlt | hle := lt_or_ge slot.toNat hardware.vslots
  · obtain ⟨x, hx⟩ := exists_vessels_get s hlt
    exact ⟨s, _, effect_of_unchanged (fun ws rs => execRdslot_of_get (s := s.setPort ws rs) hx)
      (recordOf_ok (.head _) _)⟩
  · exact ⟨s, _, effect_of_unchanged (fun ws rs => execRdslot_of_le (s := s.setPort ws rs) hle)
      (recordOf_error (.tail _ (.head _)))⟩

theorem effect_rdfifo (pos : BitVec 8) : ∃ u r, Effect (.rdfifo pos) s u r := by
  obtain hpast | hpos := le_or_gt hardware.fifoN pos.toNat
  · exact ⟨s, _, effect_of_unchanged (fun ws rs => execRdfifo_of_le (s := s.setPort ws rs) hpast)
      (recordOf_error (.tail _ (.head _)))⟩
  cases he : s.fifo[pos.toNat]? with
  | none =>
    have hlen := List.getElem?_eq_none_iff.mp he
    exact ⟨s, _, effect_of_unchanged (fun ws rs => execRdfifo_of_length_le (s := s.setPort ws rs) hpos hlen)
      (recordOf_ok (.head _) _)⟩
  | some e =>
    exact ⟨s, _, effect_of_unchanged (fun ws rs => execRdfifo_of_get (s := s.setPort ws rs) hpos he)
      (recordOf_ok (.head _) _)⟩

/-- Every command answers a next state, with one record of its row and within the groups it may write. -/
theorem exec_effect (i : Instr) : ∃ u r, Effect i s u r := by
  cases i with
  | nop => exact ⟨s, _, effect_of_unchanged (fun _ _ => exec_nop _) (recordOf_ok (.head _) _)⟩
  | reset =>
    exact ⟨s.blockReset, _, fun _ _ => exec_reset _, recordOf_ok (.head _) _,
      fun _ h => absurd rfl h, fun _ _ h => absurd rfl h, fun _ h => absurd rfl h⟩
  | decode c => exact effect_decode s c
  | c6 c => exact effect_c6 s c
  | getu lo hi =>
    exact effect_extract s (fun ws rs => exec_getu lo hi (s.setPort ws rs)) rfl fun _ =>
      recordOf_ok (.head _) (BitVec.ofNat 32 (field s.payload.buf lo.toNat hi.toNat))
  | gets lo hi =>
    exact effect_extract s (fun ws rs => exec_gets lo hi (s.setPort ws rs)) rfl fun _ =>
      recordOf_ok (.head _)
        (BitVec.ofInt 32 (signedValue (hi.toNat - lo.toNat) (field s.payload.buf lo.toNat hi.toNat)))
  | getc lo hi => exact effect_getc s lo hi
  | setcfg timeout listmax => exact effect_setcfg s timeout listmax
  | touch slot t => exact effect_touch s slot t
  | age slot now => exact effect_age s slot now
  | tick now => exact effect_tick s now
  | rdslot slot => exact effect_rdslot s slot
  | rdfifo pos => exact effect_rdfifo s pos
  | rdpr =>
    exact ⟨s, _, effect_of_unchanged (fun _ _ => exec_rdpr _)
      (recordOf_ok (.head _) s.payload.descriptor)⟩
  | reservedE rest | reservedF rest =>
    exact ⟨s, _, effect_of_unchanged (fun _ _ => illegalWord_answers _) (recordOf_error (.head _))⟩

end

/-- The effect at the state's own queues. -/
theorem Effect.exec_self {i : Instr} {s u : State} {r : Result} (h : Effect i s u r) :
    exec i s = answers (u.setPort s.pending s.results) r := h.exec_eq s.pending s.results

/-! ## The obligations on every command -/

/-- Settles O11: the record of the command's effect is one that it may return. -/
theorem resultRecordForm : Obligations.ResultRecordForm := by
  unfold Obligations.ResultRecordForm
  intro i s
  obtain ⟨u, r, heff⟩ := exec_effect s i
  obtain ⟨-, hlength, herror, hrstat, hstr⟩ := heff.record
  refine ⟨_, r, heff.exec_self, rfl, rfl, hlength, fun herr => ?_, hrstat, hstr⟩
  have hr := herror herr
  exact ⟨congrArg Result.value hr, congrArg Result.rstat hr, congrArg Result.str hr⟩

/-- Settles O13: the status of the record is in the command's row. -/
theorem commandsReturnListedStatuses : Obligations.CommandsReturnListedStatuses := by
  unfold Obligations.CommandsReturnListedStatuses
  intro i s
  obtain ⟨u, r, heff⟩ := exec_effect s i
  exact ⟨_, r, heff.exec_self, rfl, heff.record.status⟩

/-- Settles O10: a legal word has the effect of its command, and an illegal one is answered ERR_OPCODE. -/
theorem eachWordReturnsOneResult : Obligations.EachWordReturnsOneResult := by
  unfold Obligations.EachWordReturnsOneResult
  intro s w rest hp
  cases hd : decodeWord w with
  | instr i =>
    obtain ⟨u, r, heff⟩ := exec_effect { s with pending := rest } i
    exact ⟨_, r, (step_of_instr hp hd).trans heff.exec_self, rfl, rfl⟩
  | illegal why => exact ⟨_, _, (step_of_illegal hp hd).trans (illegalWord_answers _), rfl, rfl⟩

/-- Settles O16: the effect keeps every group the command may not write. -/
theorem onlyListedCommandsWriteAGroup : Obligations.OnlyListedCommandsWriteAGroup := by
  unfold Obligations.OnlyListedCommandsWriteAGroup
  intro i s t hexec
  obtain ⟨u, r, heff⟩ := exec_effect s i
  obtain rfl := Host.Outcome.next.inj (heff.exec_self.symm.trans hexec)
  obtain ⟨hdecoder, hvessels, hcfg⟩ := heff.keeps
  refine ⟨fun hdecode hreset => ?_, hvessels, hcfg⟩
  obtain ⟨hsentence, hfifo, hpayload⟩ := hdecoder hdecode hreset
  exact ⟨hsentence, hfifo, hpayload, congrArg (fun x : Sentence => x.fr.phase) hsentence⟩

/-- Two states with the same block differ in their queues only. -/
theorem sameBlock_iff_setPort {s t : State} : sameBlock s t ↔ s.setPort t.pending t.results = t := by
  constructor
  · rintro ⟨hsentence, hfifo, hpayload, hvessels, hcfg⟩
    rw [State.setPort, hsentence, hfifo, hpayload, hvessels, hcfg]
  · intro h
    rw [← h]
    exact ⟨rfl, rfl, rfl, rfl, rfl⟩

/-- Settles O17: the effect is the same whatever the queues hold. -/
theorem portQueuesNeverInfluenceCommands : Obligations.PortQueuesNeverInfluenceCommands := by
  unfold Obligations.PortQueuesNeverInfluenceCommands
  intro i s t hsame
  obtain ⟨u, r, heff⟩ := exec_effect s i
  have ht := heff.exec_eq t.pending t.results
  rw [sameBlock_iff_setPort.mp hsame] at ht
  exact ⟨_, _, r, heff.exec_self, ht, ⟨rfl, rfl, rfl, rfl, rfl⟩, rfl, rfl⟩

/-! ## Reads and repetitions (R68) -/

theorem setSlot_setSlot (s : State) (i : Nat) (x : Slot) :
    ((s.setSlot i x).setSlot i x).vessels = (s.setSlot i x).vessels := by
  simp

/-- `i` repeats on `s`: a second run returns the result of the first and leaves its block. -/
def Repeats (i : Instr) (s : State) : Prop :=
  ∃ t u r, exec i s = .next t ∧ t.results = s.results ++ [r] ∧ exec i t = .next u ∧ u.results = t.results ++ [r] ∧
    sameBlock t u

theorem touch_repeats (slot : BitVec 8) (t : BitVec 32) (s : State) : Repeats (.touch slot t) s := by
  by_cases hfree : slot.toNat < hardware.vslots ∧ slot.toNat < s.cfg.listmax.toNat
  · obtain ⟨hslot, hlist⟩ := hfree
    refine ⟨_, _, _, execTouch_of_lt t hslot hlist, rfl, execTouch_of_lt t hslot hlist, rfl, rfl, rfl, rfl, ?_, rfl⟩
    exact (setSlot_setSlot s _ _).symm
  · have hpast : hardware.vslots ≤ slot.toNat ∨ s.cfg.listmax.toNat ≤ slot.toNat := by omega
    exact ⟨_, _, _, execTouch_of_le t hpast, rfl, execTouch_of_le t hpast, rfl, rfl, rfl, rfl, rfl, rfl⟩

theorem setcfg_repeats (timeout : BitVec 16) (listmax : BitVec 8) (s : State) : Repeats (.setcfg timeout listmax) s := by
  obtain hle | hgt := le_or_gt listmax.toNat hardware.vslots
  · exact ⟨_, _, _, execSetcfg_of_le timeout hle, rfl, execSetcfg_of_le timeout hle, rfl, rfl, rfl, rfl, rfl, rfl⟩
  · exact ⟨_, _, _, execSetcfg_of_gt timeout hgt, rfl, execSetcfg_of_gt timeout hgt, rfl, rfl, rfl, rfl, rfl, rfl⟩

/-- Settles O15: the commands that only read, and the two writes that repeat. -/
theorem readsChangeNothingAndWritesRepeat : Obligations.ReadsChangeNothingAndWritesRepeat := by
  unfold Obligations.ReadsChangeNothingAndWritesRepeat
  refine ⟨fun i s hread => exec_of_readsOnly hread s, fun i s hi => ?_⟩
  obtain ⟨slot, time, rfl⟩ | ⟨timeout, listmax, rfl⟩ := hi
  · exact touch_repeats slot time s
  · exact setcfg_repeats timeout listmax s

end Sys2Proof.Machine
end

section
/-! PROOFS. The live slots stay below `cfg_listmax` (R247). -/

namespace Sys2Proof.Machine

/-- Every live slot is below `cfg_listmax`. -/
def State.LiveBelow (s : State) : Prop := ∀ k x, s.vessels[k]? = some x → x.live = true → k < s.cfg.listmax.toNat

section
variable {s : State} (h : s.LiveBelow)
include h

/-- A bound that does not fall keeps the live slots of an unchanged table below it. -/
theorem State.LiveBelow.of_vessels_eq {t : State} (hv : t.vessels = s.vessels)
    (hle : s.cfg.listmax.toNat ≤ t.cfg.listmax.toNat) : t.LiveBelow := by
  intro k x hx hlive
  rw [hv] at hx
  exact (h k x hx hlive).trans_le hle

theorem State.LiveBelow.setSlot {i : Nat} (hi : i < s.cfg.listmax.toNat) (y : Slot) : (s.setSlot i y).LiveBelow := by
  intro k x hx hlive
  by_cases hk : k = i
  · rwa [hk]
  · rw [setSlot_getElem?_ne s y hk] at hx
    exact h k x hx hlive

/-- A slot that is live after a sweep was kept by it. -/
theorem State.LiveBelow.sweep (timeout : Seconds) (now : Millis) :
    State.LiveBelow { s with vessels := mapSlots (sweepSlot timeout now) s.vessels } := by
  intro k x hx hlive
  rw [mapSlots_getElem?, Option.map_eq_some_iff] at hx
  obtain ⟨y, hy, rfl⟩ := hx
  obtain ⟨-, hfree⟩ | ⟨-, hkept⟩ := sweepSlot_cases timeout now y
  · simp [hfree] at hlive
  · rw [hkept] at hlive
    exact h k y hy hlive

end

theorem liveBelow_blockReset (s : State) : s.blockReset.LiveBelow := by
  intro k x hx hlive
  rw [State.blockReset_vessels, State.powerOn_vessels, Vector.getElem?_replicate] at hx
  split_ifs at hx
  obtain rfl := Option.some_inj.mp hx
  cases hlive

/-- TOUCH writes only a slot below the bound (R242). -/
theorem liveBelow_of_touch {slot : BitVec 8} {time : BitVec 32} {s t : State} (h : s.LiveBelow)
    (hexec : exec (.touch slot time) s = .next t) : t.LiveBelow := by
  rw [exec_touch] at hexec
  by_cases hfree : slot.toNat < hardware.vslots ∧ slot.toNat < s.cfg.listmax.toNat
  · rw [execTouch_of_lt time hfree.1 hfree.2] at hexec
    obtain rfl := Host.Outcome.next.inj hexec
    exact h.setSlot hfree.2 _
  · rw [execTouch_of_le time (by omega)] at hexec
    obtain rfl := Host.Outcome.next.inj hexec
    exact h

/-- Settles O28: only RESET, TOUCH and TICK write the table, and each leaves its live slots below the bound. -/
theorem liveSlotsStayBelowListmax : Obligations.LiveSlotsStayBelowListmax := by
  unfold Obligations.LiveSlotsStayBelowListmax
  intro i s t hexec hbound h
  have hlive : s.LiveBelow := h
  by_cases hreset : i = .reset
  · subst hreset
    obtain rfl := Host.Outcome.next.inj ((exec_reset s).symm.trans hexec)
    exact liveBelow_blockReset s
  by_cases htouch : ∃ slot time, i = .touch slot time
  · obtain ⟨slot, time, rfl⟩ := htouch
    exact liveBelow_of_touch hlive hexec
  by_cases htick : ∃ now, i = .tick now
  · obtain ⟨now, rfl⟩ := htick
    obtain rfl := Host.Outcome.next.inj ((execTick_eq now s).symm.trans hexec)
    exact hlive.sweep _ _
  · obtain ⟨-, hvessels, -⟩ := onlyListedCommandsWriteAGroup i s t hexec
    refine hlive.of_vessels_eq (hvessels ?_ ?_ hreset) (hbound.resolve_right hreset)
    · exact fun slot time hi => htouch ⟨slot, time, hi⟩
    · exact fun now hi => htick ⟨now, hi⟩

end Sys2Proof.Machine
end

section
/-! PROOFS. The power-on state, the step on the port, the code tables and the text alphabet (R73, R95, R96, R202, R320). -/

namespace Sys2Proof.Machine

/-- Settles O1: power-on writes each register of the table, and every slot of the vessel table is a copy of the free one. -/
theorem resetStateIsIdleAndEmpty : Obligations.ResetStateIsIdleAndEmpty := by
  unfold Obligations.ResetStateIsIdleAndEmpty
  have hslots : ∀ i, i < 32 → State.reset.vessels[i]? = some { live := false, last := 0#32 } := fun i hi =>
    Vector.getElem?_replicate.trans (if_pos hi)
  exact ⟨rfl, rfl, rfl, rfl, rfl, rfl, rfl, rfl, rfl, rfl, rfl, rfl, rfl, rfl, rfl, rfl, rfl, hslots, rfl, rfl⟩

/-- Settles O2: the block after RESET is legal from any state, and differs from power-on in its queues only. -/
theorem resetStateMeetsInvariant : Obligations.ResetStateMeetsInvariant := by
  unfold Obligations.ResetStateMeetsInvariant
  have hinv : nextSatisfies (execReset State.reset) State.Inv := execReset_inv
  exact ⟨hinv.sentence, hinv.fifo, hinv.payload, hinv.slots, hinv.listmax⟩

/-- Settles O9: by what waits on the port. -/
theorem stepRunsDecodedCommand : Obligations.StepRunsDecodedCommand := by
  unfold Obligations.StepRunsDecodedCommand
  refine ⟨fun s w rest i hp hd => step_of_instr hp hd, fun s hp => ?_⟩
  obtain ⟨-, hwait⟩ | ⟨w, rest, hcons, -⟩ := step_cases s
  · exact hwait
  · simp [hp] at hcons

/-- Settles O12: the two tables by evaluation, and the completing outcomes one by one. -/
theorem resultCodesMatchTheirTables : Obligations.ResultCodesMatchTheirTables := by
  unfold Obligations.ResultCodesMatchTheirTables
  refine ⟨rfl, rfl, fun r => ?_⟩
  cases r <;> decide

/-- Settles O30: each half of the alphabet fits a byte. -/
theorem textAlphabetMapsSixBitValues : Obligations.TextAlphabetMapsSixBitValues := by
  unfold Obligations.TextAlphabetMapsSixBitValues
  intro v
  have hv := v.isLt
  constructor <;> intro h <;> rw [ascii6]
  · rw [if_pos h, toNat_ofNat_of_lt (by omega)]
  · rw [if_neg (by omega), toNat_ofNat_of_lt (by omega)]

end Sys2Proof.Machine
end

section
/-! PROOFS. Messages in the FIFO: in order, started late, and beside each other (R180 to R182). -/

namespace Sys2Proof.Machine

/-! ## Other messages (R182) -/

theorem filter_id_cons {id : Byte} {e : Partial} (rest : List Partial) (h : e.id = id) :
    (e :: rest).filter (fun x => x.id ≠ id) = rest.filter (fun x => x.id ≠ id) :=
  List.filter_cons_of_neg (by simp [h])

/-- Settles O58: ACCEPT touches at most the entry of its id, and the head where it evicts. -/
theorem otherMessagesAreUndisturbed : Obligations.OtherMessagesAreUndisturbed := by
  unfold Obligations.OtherMessagesAreUndisturbed
  intro f fifo pr _
  have hallocate : [f.allocate].filter (fun x => x.id ≠ f.id) = [] := filter_id_cons [] f.allocate_id
  obtain ⟨-, heq⟩ | ⟨-, -, heq⟩ | ⟨-, front, e, rest, rfl, -, hid, heq⟩ := accept_cases f fifo pr hardware
  · rw [heq]; rfl
  · by_cases hfull : fifo.length = hardware.fifoN
    · rw [heq, acceptNew_of_full f pr hfull, List.filter_append, hallocate, List.append_nil]; rfl
    · rw [heq, acceptNew_of_room f pr hfull, List.filter_append, hallocate, List.append_nil]; rfl
  · obtain ⟨-, -, -, hmatch⟩ | ⟨-, -, -, hmatch⟩ | ⟨-, hmatch⟩ := acceptMatch_cases f front rest e pr <;>
      simp [heq, hmatch, hid]

/-! ## A message started late (R180) -/

/-- In a FIFO of distinct ids the entry of an id is the only one of it. -/
theorem FifoOk.id_ne_of_mem {front rest : List Partial} {e x : Partial} (h : FifoOk (front ++ e :: rest))
    (hx : x ∈ front ++ rest) : x.id ≠ e.id := by
  have hperm : ((e :: (front ++ rest)).map Partial.id).Nodup :=
    (List.perm_middle.map Partial.id).nodup_iff.mp h.distinct
  rw [List.map_cons, List.nodup_cons] at hperm
  exact fun heq => hperm.1 (heq ▸ List.mem_map_of_mem hx)

/-- Settles O57: the last fragment would have to be numbered past the total, and an append raises both counters. -/
theorem lateStartedMessageNeverCompletes : Obligations.LateStartedMessageNeverCompletes := by
  unfold Obligations.LateStartedMessageNeverCompletes
  intro f fifo pr e hfifo hmem hlate hid hmulti hnum
  obtain ⟨hsingle, -⟩ | ⟨-, hnew, -⟩ | ⟨-, front, e', rest, rfl, -, hid', heq⟩ := accept_cases f fifo pr hardware
  · exact absurd hsingle hmulti
  · exact absurd hid.symm (hnew e hmem)
  have hother {x : Partial} (hx : x ∈ front ++ rest) : x.id ≠ e'.id := hfifo.id_ne_of_mem hx
  obtain rfl : e = e' := by
    by_contra hne
    have hrest : e ∈ front ++ rest := by simpa [hne] using hmem
    exact hother hrest (hid.symm.trans hid'.symm)
  have he := hfifo.entries e hmem
  have hgone : ∀ x ∈ front ++ rest, x.id = e.id → x.cnt.toNat + 1 < x.next.toNat := fun x hx hxid =>
    absurd hxid (hother hx)
  obtain ⟨hnext, htotal, hlast, hmatch⟩ | ⟨hnext, htotal, -, hmatch⟩ | ⟨-, hmatch⟩ :=
    acceptMatch_cases f front rest e pr
  · have hcnt := toNat_add_one_of_le (he.cnt_lt.le.trans he.total_le)
    rw [hlast] at hcnt
    rw [hnext, htotal] at hnum
    omega
  · rw [heq, hmatch]
    refine ⟨nofun, fun x hx hxid => ?_⟩
    obtain hx | hx := List.mem_append.mp hx
    · exact hgone x (List.mem_append_left _ hx) hxid
    obtain rfl | hx := List.mem_cons.mp hx
    · have hcnt := toNat_add_one_of_le (he.cnt_lt.le.trans he.total_le)
      rw [hnext, htotal] at hnum
      have hinc := toNat_add_one_of_le (hnum.trans he.total_le)
      rw [Partial.appendFragment_cnt, Partial.appendFragment_next, hcnt, hinc]
      omega
    · exact hgone x (List.mem_append_right _ hx) hxid
  · rw [heq, hmatch]
    exact ⟨nofun, hgone⟩

/-! ## A message in order (R181) -/

/-- Fragment `k + 1` of the `n` fragments of the message `id` (R31). -/
def messageFragment (n : Nat) (id : Byte) (fills : Nat → BitVec 3) (pay : List Byte) (k : Nat) : Fragment :=
  { total := BitVec.ofNat 4 n, num := BitVec.ofNat 4 (k + 1), idp := true, id := id, pay := pay, fill := fills k }

/-- The entry of the message `id` after its first `k` fragments (R33). -/
def messageEntry (n : Nat) (id : Byte) (buf : List Byte) (k : Nat) : Partial :=
  { id := id, total := BitVec.ofNat 4 n, next := BitVec.ofNat 4 (k + 1), cnt := BitVec.ofNat 4 k, buf := buf }

/-- What ACCEPT does to the first fragment, and then to the others. -/
theorem acceptAll_cons_of_accept {f : Fragment} {rest : List Fragment} {fifo fifo' fifo'' : List Partial}
    {pr pr' pr'' : Payload} {o : Rstat} {os : List Rstat} (hfirst : accept f fifo pr = ⟨fifo', pr', o⟩)
    (hrest : acceptAll rest fifo' pr' = (fifo'', pr'', os)) : acceptAll (f :: rest) fifo pr = (fifo'', pr'', o :: os) := by
  simp [acceptAll, hfirst, hrest]

theorem ofNat_four_eq_iff {a b : Nat} (ha : a < 16) (hb : b < 16) : BitVec.ofNat 4 a = BitVec.ofNat 4 b ↔ a = b := by
  rw [BitVec.toNat_eq, toNat_ofNat_of_lt ha, toNat_ofNat_of_lt hb]

section
variable {n : Nat} {id : Byte} (fills : Nat → BitVec 3) {base : List Partial} (pr : Payload) (hn : 2 ≤ n) (hn9 : n ≤ 9)
  (hbase : ∀ x ∈ base, x.id ≠ id)
include hn hn9 hbase

/-- The fragment an entry expects is appended, or completes the message when it is the last (R174, R175). -/
theorem accept_messageFragment (buf pay : List Byte) {k : Nat} (hk : k < n) :
    (k + 1 = n → accept (messageFragment n id fills pay k) (base ++ [messageEntry n id buf k]) pr =
      { fifo := base, payload := loadPr (buf ++ pay) (fills k), rstat := .complete }) ∧
    (k + 1 ≠ n → accept (messageFragment n id fills pay k) (base ++ [messageEntry n id buf k]) pr =
      { fifo := base ++ [messageEntry n id (buf ++ pay) (k + 1)], payload := pr, rstat := .append }) := by
  have hmulti : (messageFragment n id fills pay k).total ≠ 1#4 := by
    rw [messageFragment, Ne, ofNat_four_eq_iff (by omega) (by decide)]
    omega
  obtain ⟨hcomplete, happend⟩ := inSequenceFragmentAppendsOrCompletes (messageFragment n id fills pay k) base []
    (messageEntry n id buf k) pr hmulti hbase rfl rfl rfl
  have hcnt : (messageEntry n id buf k).cnt + 1#4 = BitVec.ofNat 4 (k + 1) := (BitVec.ofNat_add k 1).symm
  have hnext : (messageEntry n id buf k).next + 1#4 = BitVec.ofNat 4 (k + 1 + 1) := (BitVec.ofNat_add (k + 1) 1).symm
  have hlast : BitVec.ofNat 4 (k + 1) = (messageEntry n id buf k).total ↔ k + 1 = n :=
    ofNat_four_eq_iff (by omega) (by omega)
  rw [hcnt] at hcomplete happend
  rw [hnext] at happend
  rw [List.append_nil] at hcomplete
  exact ⟨fun h => hcomplete (hlast.mpr h), fun h => happend (mt hlast.mp h)⟩

/-- The fragments that remain after the first `k` complete the message (R181). -/
theorem acceptAll_messageFragments (pays : List (List Byte)) (buf : List Byte) {k : Nat} (hne : pays ≠ [])
    (hk : k + pays.length = n) :
    acceptAll ((pays.zipIdx k).map fun p => messageFragment n id fills p.1 p.2) (base ++ [messageEntry n id buf k]) pr =
      (base, loadPr (buf ++ pays.flatten) (fills (n - 1)), List.replicate (pays.length - 1) Rstat.append ++ [.complete]) := by
  induction pays generalizing k buf with
  | nil => exact absurd rfl hne
  | cons pay rest ih =>
    rw [List.length_cons] at hk
    obtain ⟨hcomplete, happend⟩ := accept_messageFragment fills pr hn hn9 hbase buf pay (k := k) (by omega)
    rw [List.zipIdx_cons, List.map_cons]
    cases rest with
    | nil =>
      rw [List.length_nil] at hk
      rw [acceptAll_cons_of_accept (hcomplete hk) rfl, ← hk]
      simp [acceptAll]
    | cons pay' rest =>
      rw [List.length_cons] at hk
      have hrest := ih (buf ++ pay) (k := k + 1) (by simp) (by rw [List.length_cons]; omega)
      rw [acceptAll_cons_of_accept (happend (by omega)) hrest, List.append_assoc]
      rfl

end

/-- Settles O56: the first fragment allocates the entry at the tail, and the others find it there. -/
theorem inOrderFragmentsComplete : Obligations.InOrderFragmentsComplete := by
  unfold Obligations.InOrderFragmentsComplete
  intro id pays fills fifo pr hmin hmax hlen hnew
  obtain ⟨pay, rest, rfl⟩ := List.exists_cons_of_ne_nil (List.ne_nil_of_length_pos (by omega : 0 < pays.length))
  have hrest : rest ≠ [] := by rintro rfl; simp at hmin
  have hmulti : (messageFragment (pay :: rest).length id fills pay 0).total ≠ 1#4 := by
    rw [messageFragment, Ne, ofNat_four_eq_iff (by omega) (by decide)]
    omega
  obtain ⟨hroom, hfull⟩ :=
    newMessageAllocatesAtTail (messageFragment (pay :: rest).length id fills pay 0) fifo pr hmulti hnew
  have hothers {base : List Partial} (hbase : ∀ x ∈ base, x.id ≠ id) :=
    acceptAll_messageFragments fills pr hmin hmax hbase rest pay (k := 1) hrest (Nat.add_comm ..)
  have houtcomes : List.replicate (rest.length - 1) Rstat.append = List.replicate ((pay :: rest).length - 2) Rstat.append :=
    rfl
  by_cases hten : fifo.length = 10
  · rw [if_pos hten, if_pos hten, ← houtcomes]
    exact acceptAll_cons_of_accept (hfull hten) (hothers fun x hx => hnew x (List.mem_of_mem_tail hx))
  · rw [if_neg hten, if_neg hten, ← houtcomes]
    exact acceptAll_cons_of_accept (hroom hten) (hothers hnew)

end Sys2Proof.Machine
end

section
/-! PROOFS. The block at any parameters: each bound is the value of its parameter, and times have their widths (R7). -/

namespace Sys2Proof.Machine
open Sys2Proof.Claims

/-! ## The refused commands -/

section
variable {p : Params} {s : State p}

/-- An answer of one status is not the answer of an error of another. -/
theorem not_error_of_answers {o : Host.Outcome (State p) Fault Refusal} {t : State p} {r : Result} {st : Status}
    (herr : o = answers s (recordFor p st 0#32)) (ho : o = answers t r) (hres : t.results = s.results)
    (hst : r.status ≠ st) : False := by
  have hresults := congrArg State.results (Host.Outcome.next.inj (herr.symm.trans ho))
  have hr : recordFor p st 0#32 = r := by simpa [hres] using hresults
  exact hst (congrArg Result.status hr.symm)

/-- In a readable range an extraction is refused exactly for its width (R205). -/
theorem extract_errRange_iff {k : Kind} {lo hi : BitVec 12} {r : Result} (hread : readable s.payload lo hi)
    (hr : r.status = .ok) :
    extract k lo hi r s = answers s (recordFor p .errRange 0#32) ↔ k.widthOk (hi.toNat - lo.toNat) p = false := by
  obtain ⟨hvalid, hall, hle, hend⟩ := hread
  have hcheck : xcheck k lo.toNat hi.toNat s.payload p =
      if k.widthOk (hi.toNat - lo.toNat) p = false then .errRange else .ok := by
    simp [xcheck, hvalid, (armorOk_iff s.payload.buf).mpr hall, Nat.not_lt.mpr hle, bitlen, Nat.not_lt.mpr hend]
  obtain ⟨hok, heq⟩ | ⟨hbad, heq⟩ := extract_cases k lo hi r s
  · refine iff_of_false (fun herr => not_error_of_answers herr heq rfl (by simp [hr])) fun hwide => ?_
    rw [hcheck, if_pos hwide] at hok
    cases hok
  · have hwide : k.widthOk (hi.toNat - lo.toNat) p = false := by
      by_contra hfits
      exact hbad (hcheck.trans (if_neg hfits))
    rw [hcheck, if_pos hwide] at heq
    exact iff_of_true heq hwide

/-! ## The bounds of the extractor -/

theorem execGetu_errRange_iff {lo hi : BitVec 12} (hread : readable s.payload lo hi) :
    execGetu lo hi s = answers s (recordFor p .errRange 0#32) ↔ p.wMax < hi.toNat - lo.toNat := by
  rw [execGetu, extract_errRange_iff hread rfl]
  simp only [Kind.widthOk, decide_eq_false_iff_not, Nat.not_le]

theorem execGets_errRange_iff {lo hi : BitVec 12} (hread : readable s.payload lo hi) :
    execGets lo hi s = answers s (recordFor p .errRange 0#32) ↔ p.wMax < hi.toNat - lo.toNat := by
  rw [execGets, extract_errRange_iff hread rfl]
  simp only [Kind.widthOk, decide_eq_false_iff_not, Nat.not_le]

theorem execGetc_errRange_iff {lo hi : BitVec 12} {n : Nat} (hread : readable s.payload lo hi)
    (hn : hi.toNat - lo.toNat = 6 * n) :
    execGetc lo hi s = answers s (recordFor p .errRange 0#32) ↔ p.strMax < n := by
  rw [execGetc, extract_errRange_iff hread rfl]
  simp [Kind.widthOk, hn]

/-! ## The bounds of the vessel table and the FIFO -/

variable {slot : BitVec 8}

theorem execSetcfg_errRange_iff (timeout : BitVec 16) (listmax : BitVec 8) :
    execSetcfg timeout listmax s = answers s (recordFor p .errRange 0#32) ↔ p.vslots < listmax.toNat := by
  refine ⟨fun h => ?_, execSetcfg_of_gt timeout⟩
  by_contra hle
  exact not_error_of_answers h (execSetcfg_of_le timeout (Nat.not_lt.mp hle)) rfl nofun

theorem execTouch_errSlot_iff (t : BitVec 32) :
    execTouch slot t s = answers s (recordFor p .errSlot 0#32) ↔
      p.vslots ≤ slot.toNat ∨ s.cfg.listmax.toNat ≤ slot.toNat := by
  refine ⟨fun h => ?_, execTouch_of_le t⟩
  by_contra hfree
  obtain ⟨hslot, hlist⟩ := not_or.mp hfree
  exact not_error_of_answers h (execTouch_of_lt t (Nat.not_le.mp hslot) (Nat.not_le.mp hlist)) rfl nofun

theorem execAge_errSlot_iff (now : BitVec 32) :
    execAge slot now s = answers s (recordFor p .errSlot 0#32) ↔ p.vslots ≤ slot.toNat := by
  refine ⟨fun h => ?_, execAge_of_le now⟩
  by_contra hlt
  obtain ⟨x, hx⟩ := exists_vessels_get s (Nat.not_le.mp hlt)
  exact not_error_of_answers h (execAge_of_get now hx) rfl nofun

theorem execRdslot_errSlot_iff :
    execRdslot slot s = answers s (recordFor p .errSlot 0#32) ↔ p.vslots ≤ slot.toNat := by
  refine ⟨fun h => ?_, execRdslot_of_le⟩
  by_contra hlt
  obtain ⟨x, hx⟩ := exists_vessels_get s (Nat.not_le.mp hlt)
  exact not_error_of_answers h (execRdslot_of_get hx) rfl nofun

theorem execRdfifo_errSlot_iff :
    execRdfifo slot s = answers s (recordFor p .errSlot 0#32) ↔ p.fifoN ≤ slot.toNat := by
  refine ⟨fun h => ?_, execRdfifo_of_le⟩
  by_contra hlt
  have hpos : slot.toNat < p.fifoN := Nat.not_le.mp hlt
  cases he : s.fifo[slot.toNat]? with
  | none => exact not_error_of_answers h (execRdfifo_of_length_le hpos (List.getElem?_eq_none_iff.mp he)) rfl nofun
  | some e => exact not_error_of_answers h (execRdfifo_of_get hpos he) rfl nofun

/-! ## The step, the FIFO and power-on -/

theorem stepFor_of_instr {w : CmdWord} {rest : List CmdWord} {i : Instr} (hp : s.pending = w :: rest)
    (hd : decodeWord w = .instr i) : stepFor s = execFor i { s with pending := rest } := by
  simp [stepFor, transact, takeWord_of_pending_cons hp, hd]

theorem accept_newEvict_iff {f : Fragment} {fifo : List Partial} (pr : Payload) (hmulti : f.total ≠ 1#4)
    (hnew : ∀ x ∈ fifo, x.id ≠ f.id) : (accept f fifo pr p).rstat = .newEvict ↔ fifo.length = p.fifoN := by
  rw [accept_of_new pr p hmulti hnew]
  by_cases hfull : fifo.length = p.fifoN
  · simp [acceptNew_of_full f pr hfull, hfull]
  · simp [acceptNew_of_room f pr hfull, hfull]

theorem powerOn_vessels_getElem? (k : Nat) :
    (State.powerOn p).vessels[k]? = if k < p.vslots then some { live := false, last := 0#p.tsW } else none :=
  Vector.getElem?_replicate

end

/-- A term of the value `n` passes or fails by the parameters MAX_TOTAL and ID_MAX (R133, R135). -/
theorem term_bounds (p : Params) {s : Sentence} {n : Nat} (hok : s.fr.why = .ok) (hd : dec s.fr.tbuf = some n) :
    (1 ≤ n → n ≤ p.maxTotal → term1 s p = { s with st := { s.st with total := BitVec.ofNat 4 n } }) ∧
    (p.maxTotal < n → term1 s p = withCause .errTerm s) ∧
    (n ≤ p.idMax → term3 s p = { s with st := { s.st with idp := true, id := BitVec.ofNat 8 n } }) ∧
    (p.idMax < n → term3 s p = withCause .errTerm s) := by
  have hval {m : Nat} (hm : dec s.fr.tbuf = some m) : m = n := Option.some_inj.mp (hm.symm.trans hd)
  have hfail : s.fail .errTerm = withCause .errTerm s := fail_of_ok .errTerm hok
  refine ⟨term1_of_pass p hd, fun hgt => ?_, term3_of_pass p hd, fun hgt => ?_⟩
  · exact (term1_of_fail p fun m hm => .inr (hval hm ▸ hgt)).trans hfail
  · exact (term3_of_fail p (ne_nil_of_dec_eq_some hd) fun m hm => hval hm ▸ hgt).trans hfail

/-- Settles O59: bound by bound, from the lemma of the operation that has it. -/
theorem boundsFollowTheParameters : Obligations.BoundsFollowTheParameters := by
  unfold Obligations.BoundsFollowTheParameters
  refine ⟨rfl, hardware_legal, exec_eq_execFor, step_eq_stepFor, State.reset_eq, fun p => ?_⟩
  refine ⟨rfl, powerOn_vessels_getElem?, fun s w rest i => stepFor_of_instr, ?buffer, fun s n => term_bounds p,
    fun f fifo pr => accept_newEvict_iff pr, ?extract, ?operands⟩
  case buffer => exact fun f c => ⟨pushByte_of_room c, pushByte_of_full c⟩
  case extract =>
    intro lo hi s hread
    exact ⟨execGetu_errRange_iff hread, execGets_errRange_iff hread, fun n => execGetc_errRange_iff hread⟩
  case operands =>
    intro slot time timeout listmax s
    exact ⟨execSetcfg_errRange_iff timeout listmax, execTouch_errSlot_iff time, execAge_errSlot_iff time,
      execRdslot_errSlot_iff, execRdfifo_errSlot_iff⟩

/-- Settles O60: the stamp and the timeout are the operands at their widths, and at most 32 slots fit the mask. -/
theorem timesFollowTheirWidths : Obligations.TimesFollowTheirWidths := by
  unfold Obligations.TimesFollowTheirWidths
  intro p s hlegal
  refine ⟨?setcfg, ?touch, ?age, ?tick, ?rdslot⟩
  case setcfg =>
    intro timeout listmax hle
    exact ⟨_, seconds_toNat timeout p, execSetcfg_of_le timeout hle⟩
  case touch =>
    intro slot time hslot hlist
    exact ⟨_, _, stamp_toNat time p, execTouch_of_lt time hslot hlist, setSlot_getElem?_same s _ hslot,
      fun _ => setSlot_getElem?_ne s _⟩
  case age =>
    intro slot now x hx
    refine ⟨_, execAge_of_get now hx, ?_, getLsbD_ageValue_one .., fun _ => getLsbD_ageValue_of_two_le _ _⟩
    rw [getLsbD_ageValue_zero]
    exact ageExceeds_stamp_iff s.cfg.timeout now x.last
  case tick =>
    intro now
    exact ⟨_, _, execTick_eq now s, fun k x hx =>
      ⟨sweep_of_tooOld hlegal.mask hx, sweep_of_not_tooOld hlegal.mask hx⟩⟩
  case rdslot =>
    intro slot x hx
    exact ⟨_, execRdslot_of_get hx, lastValue_toNat x⟩

end Sys2Proof.Machine
end

section
/-! PROOFS. A run of DECODE commands as a run of the sentence (R143, R147). -/

namespace Sys2Proof.Machine
open Sys2Proof.Claims

/-! ## Commands one after another -/

theorem performAll_cons {i : Instr} {rest : List Instr} {s t : State} (h : exec i s = .next t) :
    performAll (i :: rest) s = performAll rest t := by
  rw [performAll, h]

theorem performAll_append {a b : List Instr} {s t : State} (h : performAll a s = .next t) :
    performAll (a ++ b) s = performAll b t := by
  induction a generalizing s with
  | nil => rw [Host.Outcome.next.inj h, List.nil_append]
  | cons i a ih =>
    rw [performAll] at h
    split at h
    · rename_i u hu
      rw [List.cons_append, performAll_cons hu, ih h]
    · cases h
    · cases h

/-! ## The bytes of a sentence one after another -/

/-- The sentence after the bytes, each by `Sentence.next`. -/
def Sentence.feed (x : Sentence) (bytes : List Byte) : Sentence := bytes.foldl Sentence.next x

@[simp] theorem feed_nil (x : Sentence) : x.feed [] = x := rfl
@[simp] theorem feed_cons (x : Sentence) (c : Byte) (bytes : List Byte) : x.feed (c :: bytes) = (x.next c).feed bytes := rfl
@[simp] theorem feed_append (x : Sentence) (a b : List Byte) : x.feed (a ++ b) = (x.feed a).feed b :=
  List.foldl_append

/-- No byte of the run closes a valid sentence. -/
def NeverAccepts : List Byte → Sentence → Prop
  | [], _ => True
  | c :: rest, x => ¬ x.Accepts c ∧ NeverAccepts rest (x.next c)

theorem neverAccepts_append {a b : List Byte} {x : Sentence} :
    NeverAccepts (a ++ b) x ↔ NeverAccepts a x ∧ NeverAccepts b (x.feed a) := by
  induction a generalizing x with
  | nil => simp [NeverAccepts]
  | cons c a ih => simp [NeverAccepts, ih, and_assoc]

/-- Bytes that terminate nothing move the sentence, and each returns `(OK, 0, R_NONE)` (R125). -/
theorem performAll_decode_of_open {bytes : List Byte} (h : ∀ c ∈ bytes, classify c ≠ .terminator) (s : State) :
    performAll (bytes.map Instr.decode) s =
      .next { s with
        sentence := s.sentence.feed bytes
        results := s.results ++ List.replicate bytes.length (record .ok 0#32 .none) } := by
  induction bytes generalizing s with
  | nil => simp [performAll]
  | cons c rest ih =>
    obtain ⟨hc, hrest⟩ := List.forall_mem_cons.mp h
    rw [List.map_cons, performAll_cons (exec_decode_of_not_close (.inl hc)), ih hrest]
    simp [List.replicate_succ]

/-- A last byte after them adds the result of its effect. -/
theorem performAll_decode_concat {bytes : List Byte} (h : ∀ c ∈ bytes, classify c ≠ .terminator) {e : Byte} {s : State}
    {fifo' : List Partial} {loaded : Option Payload} {r : Result}
    (heff : DecodeEffect e (s.sentence.feed bytes) s.fifo fifo' loaded r) :
    ∃ t, performAll ((bytes ++ [e]).map Instr.decode) s = .next t ∧ t.sentence = (s.sentence.feed bytes).next e ∧
      t.results = s.results ++ List.replicate bytes.length (record .ok 0#32 .none) ++ [r] := by
  rw [List.map_append, performAll_append (performAll_decode_of_open h s)]
  exact ⟨_, performAll_cons (heff.exec_eq _ rfl rfl), rfl, rfl⟩

/-- Any run of bytes goes on, and a run that accepts nothing returns no FRAGMENT. -/
theorem performAll_decode (bytes : List Byte) (s : State) :
    ∃ t rs, performAll (bytes.map Instr.decode) s = .next t ∧ t.sentence = s.sentence.feed bytes ∧
      t.results = s.results ++ rs ∧ (NeverAccepts bytes s.sentence → ∀ r ∈ rs, r.status ≠ .fragment) := by
  induction bytes generalizing s with
  | nil => exact ⟨s, [], rfl, rfl, (List.append_nil _).symm, fun _ => by simp⟩
  | cons c rest ih =>
    obtain ⟨fifo', loaded, r, heff⟩ := exec_decode_effect c s.sentence s.fifo
    have hexec := heff.exec_eq s rfl rfl
    obtain ⟨t, rs, hrun, hsentence, hresults, hnever⟩ := ih _
    refine ⟨t, r :: rs, (performAll_cons hexec).trans hrun, hsentence, by simp [hresults], fun h => ?_⟩
    rw [List.forall_mem_cons]
    exact ⟨fun hst => h.1 (heff.fragment_iff.mp hst), hnever h.2⟩

/-! ## The byte classes of a body -/

theorem classify_of_body {c : Byte} (h : bodyByte c) : c = 0x2C#8 ∨ classify c = .ordinary := by
  by_cases hcomma : c = 0x2C#8
  · exact .inl hcomma
  · exact .inr (classify_of_ordinary h hcomma)

theorem classify_ne_terminator_of_body {c : Byte} (h : bodyByte c) : classify c ≠ .terminator := by
  obtain rfl | hc := classify_of_body h
  · decide
  · rw [hc]; decide

theorem classify_ne_start_of_body {c : Byte} (h : bodyByte c) : classify c ≠ .start := by
  obtain rfl | hc := classify_of_body h
  · decide
  · rw [hc]; decide

/-! ## The registers after one byte -/

section
variable (x : Sentence) (c : Byte)

@[simp] theorem ordinary_st : (ordinary c x).st = x.st := rfl
@[simp] theorem ordinary_done : (ordinary c x).fr.done = x.fr.done := by simp [ordinary_eq]
@[simp] theorem ordinary_cks : (ordinary c x).fr.cks = x.fr.cks := by simp [ordinary_eq]
@[simp] theorem ordinary_why : (ordinary c x).fr.why = x.fr.why := by simp [ordinary_eq]
@[simp] theorem ordinary_tidx : (ordinary c x).fr.tidx = x.fr.tidx := by simp [ordinary_eq]
@[simp] theorem ordinary_acc : (ordinary c x).fr.acc = if x.fr.cks then x.fr.acc else x.fr.acc ^^^ c := by
  simp [ordinary_eq, Sentence.setAcc]

@[simp] theorem Sentence.setAcc_acc (a : Byte) : (x.setAcc a).fr.acc = a := rfl
@[simp] theorem Sentence.openTerm_st (k : BitVec 3) : (x.openTerm k).st = x.st := rfl
@[simp] theorem Sentence.openTerm_done (k : BitVec 3) : (x.openTerm k).fr.done = x.fr.done := rfl
@[simp] theorem Sentence.openTerm_cks (k : BitVec 3) : (x.openTerm k).fr.cks = x.fr.cks := rfl
@[simp] theorem Sentence.openTerm_why (k : BitVec 3) : (x.openTerm k).fr.why = x.fr.why := rfl
@[simp] theorem Sentence.openTerm_tidx (k : BitVec 3) : (x.openTerm k).fr.tidx = k := rfl
@[simp] theorem Sentence.openTerm_acc (k : BitVec 3) : (x.openTerm k).fr.acc = x.fr.acc := rfl
@[simp] theorem Sentence.openChecksum_done : x.openChecksum.fr.done = x.fr.done := rfl
@[simp] theorem Sentence.openChecksum_cks : x.openChecksum.fr.cks = true := rfl
@[simp] theorem Sentence.openChecksum_why : x.openChecksum.fr.why = x.fr.why := rfl
@[simp] theorem Sentence.openChecksum_acc : x.openChecksum.fr.acc = x.fr.acc := rfl

end

section
variable {x : Sentence}

@[simp] theorem comma_done : (comma x).fr.done = x.fr.done := by
  cases hc : x.fr.cks with
  | true => simp [comma_of_checksum hc]
  | false => simp [comma_of_body hc]

@[simp] theorem comma_cks : (comma x).fr.cks = x.fr.cks := by
  cases hc : x.fr.cks with
  | true => simp [comma_of_checksum hc, hc]
  | false => simp [comma_of_body hc, hc]

theorem comma_acc (hc : x.fr.cks = false) : (comma x).fr.acc = x.fr.acc ^^^ 0x2C#8 := by simp [comma_of_body hc]

@[simp] theorem star_done : (star x).fr.done = x.fr.done := by
  cases hc : x.fr.cks with
  | true => simp [star_of_checksum hc]
  | false => by_cases h6 : x.fr.tidx = 6#3 <;> simp [star_of_six, star_of_other, hc, h6]

theorem star_cks : (star x).fr.cks = true := by
  cases hc : x.fr.cks with
  | true => simp [star_of_checksum hc, hc]
  | false => by_cases h6 : x.fr.tidx = 6#3 <;> simp [star_of_six, star_of_other, hc, h6]

end

/-! ## The accumulator over a body (R143) -/

/-- The sentence is in its body: begun and without a star. -/
structure Sentence.InBody (x : Sentence) : Prop where
  busy : x.fr.done = false
  starless : x.fr.cks = false

theorem inBody_sentenceReset : (sentenceReset false).InBody := ⟨rfl, rfl⟩

section
variable {x : Sentence} (h : x.InBody)
include h

theorem Sentence.InBody.next {c : Byte} (hc : bodyByte c) : (x.next c).InBody ∧ (x.next c).fr.acc = x.fr.acc ^^^ c := by
  obtain ⟨hbusy, hcks⟩ := h
  obtain rfl | hc := classify_of_body hc
  · rw [next_of_comma rfl hbusy]
    exact ⟨⟨comma_done.trans hbusy, comma_cks.trans hcks⟩, comma_acc hcks⟩
  · rw [next_of_ordinary hc hbusy]
    exact ⟨⟨(ordinary_done x c).trans hbusy, (ordinary_cks x c).trans hcks⟩, by simp [hcks]⟩

theorem Sentence.InBody.feed {body : List Byte} (hbody : ∀ c ∈ body, bodyByte c) :
    (x.feed body).InBody ∧ (x.feed body).fr.acc = body.foldl (fun acc c => acc ^^^ c) x.fr.acc := by
  induction body generalizing x with
  | nil => exact ⟨h, rfl⟩
  | cons c body ih =>
    obtain ⟨hc, hrest⟩ := List.forall_mem_cons.mp hbody
    obtain ⟨hnext, hacc⟩ := h.next hc
    rw [feed_cons, List.foldl_cons, ← hacc]
    exact ih hnext hrest

end

theorem sentence_bytes_not_terminator {m : Byte} {body : List Byte} (hm : m = 0x24#8 ∨ m = 0x21#8)
    (hbody : ∀ c ∈ body, bodyByte c) : ∀ c ∈ m :: body, classify c ≠ .terminator := by
  rw [List.forall_mem_cons, classify_of_start hm]
  exact ⟨by decide, fun c hc => classify_ne_terminator_of_body (hbody c hc)⟩

/-- Settles O49: each body byte is XORed, whichever of the two classes it has. -/
theorem accumulatorIsXorOfBody : Obligations.AccumulatorIsXorOfBody := by
  unfold Obligations.AccumulatorIsXorOfBody
  intro s m body hm hbody
  refine ⟨_, performAll_decode_of_open (sentence_bytes_not_terminator hm hbody) s, ?_⟩
  obtain ⟨⟨hbusy, hcks⟩, hacc⟩ := inBody_sentenceReset.feed hbody
  rw [feed_cons, next_of_start (classify_of_start hm)]
  exact ⟨hacc, hbusy, hcks⟩

end Sys2Proof.Machine
end

section
/-! PROOFS. The byte-by-byte parse of a body against the list of its terms (R128, R131 to R138, R147). -/

namespace Sys2Proof.Machine
open Sys2Proof.Claims

/-! ## A term in the buffer (R126) -/

/-- The term buffer holds the term `t`: its first 64 bytes, marked oversized when there are more. -/
structure Framer.Holds (f : Framer) (t : List Byte) : Prop where
  tbuf : f.tbuf = t.take 64
  tovf : f.tovf = decide (64 < t.length)

theorem Framer.Holds.push {f : Framer} {t : List Byte} (h : f.Holds t) (c : Byte) : (f.pushByte c).Holds (t ++ [c]) := by
  obtain ⟨htbuf, htovf⟩ := h
  obtain ⟨hroom, hfull⟩ := pushByte_buffer f c
  have hlen : f.tbuf.length = min 64 t.length := by rw [htbuf, List.length_take]
  obtain hlt | hge := lt_or_ge t.length 64
  · obtain ⟨htbuf', htovf'⟩ := hroom (by omega)
    have hfits : t.length + 1 ≤ 64 := hlt
    refine ⟨?_, ?_⟩
    · rw [htbuf', htbuf, List.take_of_length_le hlt.le, List.take_of_length_le (by simpa using hfits)]
    · rw [htovf', htovf, decide_eq_decide, List.length_append, List.length_singleton]; omega
  · obtain ⟨htbuf', htovf'⟩ := hfull (by omega)
    refine ⟨?_, ?_⟩
    · rw [htbuf', htbuf, List.take_append_of_le_length hge]
    · rw [htovf', List.length_append, List.length_singleton]; exact (decide_eq_true (by omega)).symm

theorem Framer.Holds.ordinary {x : Sentence} {t : List Byte} (h : x.fr.Holds t) (c : Byte) :
    (ordinary c x).fr.Holds (t ++ [c]) := by
  have hacc (a : Byte) : (x.setAcc a).fr.Holds t := ⟨h.tbuf, h.tovf⟩
  rw [ordinary_eq]
  exact (hacc _).push c

/-- A term that fits is the buffer's content. -/
theorem Framer.Holds.fits {f : Framer} {t : List Byte} (h : f.Holds t) (hlen : t.length ≤ 64) :
    f.tovf = false ∧ f.tbuf = t :=
  ⟨by rw [h.tovf]; simpa using hlen, by rw [h.tbuf, List.take_of_length_le hlen]⟩

theorem Framer.Holds.oversized {f : Framer} {t : List Byte} (h : f.Holds t) (hlen : 64 < t.length) : f.tovf = true := by
  rw [h.tovf]; simpa using hlen

/-! ## Which terms pass -/

/-- Term `k` passes its parse step, in a sentence whose `st_total` is `total` (R131 to R139). -/
def TermPasses (k total : Nat) (t : List Byte) : Prop :=
  t.length ≤ 64 ∧
    match k with
    | 0 => t = aivdm
    | 1 => ∃ n, dec t = some n ∧ 1 ≤ n ∧ n ≤ 9
    | 2 => ∃ n, dec t = some n ∧ 1 ≤ n ∧ n ≤ total
    | 3 => t = [] ∧ total ≤ 1 ∨ ∃ n, dec t = some n ∧ n ≤ 255
    | 4 => True
    | 5 => t ≠ []
    | 6 => ∃ c n, t = [c] ∧ decDigit c = some n ∧ n ≤ 5
    | _ => False

/-- `st_total` after term `k` (R133). -/
def totalAfter (k total : Nat) (t : List Byte) : Nat := if k = 1 then (dec t).getD 0 else total

/-- Terms `k`, `k + 1`, … up to term 6 pass. -/
def TermsPassFrom (k total : Nat) : List (List Byte) → Prop
  | [] => k = 7
  | t :: ts => TermPasses k total t ∧ TermsPassFrom (k + 1) (totalAfter k total t) ts

/-- A cause the terms of a sentence can give: no verdict of the checksum check. -/
def Cause.OfTerms (why : Cause) : Prop := why ≠ .errHex ∧ why ≠ .errChecksum

/-- The verdict on term `k` in the sentence `x`, which becomes `y`: the term passes, or `y` is failed. -/
def Judged (k : Nat) (t : List Byte) (x y : Sentence) : Prop :=
  (TermPasses k x.st.total.toNat t ∧ y.fr.why = .ok ∧ y.st.total.toNat = totalAfter k x.st.total.toNat t) ∨
  (¬ TermPasses k x.st.total.toNat t ∧ y.fr.why ≠ .ok ∧ y.fr.why.OfTerms)

section
variable {k : Nat} {t : List Byte} {x y : Sentence}

theorem judged_of_fail {why : Cause} (hne : why ≠ .ok) (hof : why.OfTerms)
    (hnot : ¬ TermPasses k x.st.total.toNat t) (hy : y.fr.why = why) : Judged k t x y :=
  .inr ⟨hnot, hy ▸ hne, hy ▸ hof⟩

theorem fail_why_of_ok {w : Cause} (hok : x.fr.why = .ok) : (x.fail w).fr.why = w := by rw [fail_of_ok w hok]

theorem errTerm_ofTerms : Cause.errTerm.OfTerms := ⟨by decide, by decide⟩

end

/-- Term 4 passes whatever it holds. -/
theorem judged_term4 {x : Sentence} {t : List Byte} (hok : x.fr.why = .ok) (hlen : t.length ≤ 64) :
    Judged 4 t x (term4 x) := .inl ⟨⟨hlen, trivial⟩, hok, rfl⟩

section
variable {x : Sentence} {t : List Byte} (hok : x.fr.why = .ok) (ht : x.fr.tbuf = t) (hlen : t.length ≤ 64)
include hok ht hlen

theorem judged_term1 : Judged 1 t x (term1 x) := by
  subst ht
  obtain ⟨n, hd, h1, hn, heq⟩ | ⟨hno, heq⟩ := term1_cases x hardware
  · have htotal : (BitVec.ofNat 4 n).toNat = n := toNat_ofNat_of_lt (by rw [hardware_maxTotal] at hn; omega)
    exact .inl ⟨⟨hlen, n, hd, h1, hn⟩, heq ▸ hok, by rw [heq, totalAfter, if_pos rfl, hd]; exact htotal⟩
  · refine judged_of_fail (by decide) errTerm_ofTerms ?_ (heq ▸ fail_why_of_ok hok)
    rintro ⟨-, n, hd, hn⟩
    exact hno n hd hn

theorem judged_term2 : Judged 2 t x (term2 x) := by
  subst ht
  obtain ⟨n, hd, h1, hn, heq⟩ | ⟨hno, heq⟩ := term2_cases x
  · exact .inl ⟨⟨hlen, n, hd, h1, hn⟩, heq ▸ hok, by rw [heq]; rfl⟩
  · refine judged_of_fail (by decide) errTerm_ofTerms ?_ (heq ▸ fail_why_of_ok hok)
    rintro ⟨-, n, hd, hn⟩
    exact hno n hd hn

theorem judged_term3 : Judged 3 t x (term3 x) := by
  subst ht
  obtain ⟨hnil, hle, heq⟩ | ⟨hnil, hlt, heq⟩ | ⟨-, n, hd, hn, heq⟩ | ⟨hne, hno, heq⟩ := term3_cases x hardware
  · exact .inl ⟨⟨hlen, .inl ⟨hnil, hle⟩⟩, heq ▸ hok, by rw [heq]; rfl⟩
  · refine judged_of_fail (by decide) errTerm_ofTerms ?_ (heq ▸ fail_why_of_ok hok)
    rintro ⟨-, ⟨-, hle⟩ | ⟨n, hd, -⟩⟩
    · omega
    · exact ne_nil_of_dec_eq_some hd hnil
  · exact .inl ⟨⟨hlen, .inr ⟨n, hd, hn⟩⟩, heq ▸ hok, by rw [heq]; rfl⟩
  · refine judged_of_fail (by decide) errTerm_ofTerms ?_ (heq ▸ fail_why_of_ok hok)
    rintro ⟨-, ⟨hnil, -⟩ | ⟨n, hd, hn⟩⟩
    · exact hne hnil
    · exact absurd hn (not_le.mpr (hno n hd))

theorem judged_term5 : Judged 5 t x (term5 x) := by
  subst ht
  obtain ⟨hne, heq⟩ | ⟨hnil, heq⟩ := term5_cases x
  · exact .inl ⟨⟨hlen, hne⟩, heq ▸ hok, by rw [heq]; rfl⟩
  · exact judged_of_fail (by decide) errTerm_ofTerms (fun h => h.2 hnil) (heq ▸ fail_why_of_ok hok)

theorem judged_term6 : Judged 6 t x (term6 x) := by
  subst ht
  obtain ⟨c, n, hc, hd, hn, heq⟩ | ⟨hno, heq⟩ := term6_cases x
  · exact .inl ⟨⟨hlen, c, n, hc, hd, hn⟩, heq ▸ hok, by rw [heq]; rfl⟩
  · refine judged_of_fail (by decide) errTerm_ofTerms ?_ (heq ▸ fail_why_of_ok hok)
    rintro ⟨-, c, n, hc, hd, hn⟩
    exact absurd hn (not_le.mpr (hno c n hc hd))

end

section
variable {x : Sentence} {t : List Byte} (hok : x.fr.why = .ok) (hholds : x.fr.Holds t)
include hok hholds

theorem judged_term0 : Judged 0 t x (term0 x) := by
  rw [term0_of_ok hok]
  by_cases hid : t = aivdm
  · subst hid
    rw [if_pos (hholds.fits (by decide))]
    exact .inl ⟨⟨by decide, rfl⟩, hok, rfl⟩
  · have hbad : ¬ (x.fr.tovf = false ∧ x.fr.tbuf = aivdm) := by
      rintro ⟨hovf, hbuf⟩
      rw [hholds.tovf, decide_eq_false_iff_not, not_lt] at hovf
      exact hid ((hholds.fits hovf).2.symm.trans hbuf)
    rw [if_neg hbad]
    exact judged_of_fail (why := .ignored) (by decide) ⟨by decide, by decide⟩ (fun h => hid h.2) rfl

/-- Completing term `k` judges the term that the buffer holds (R128). -/
theorem judged_completeTerm (k : BitVec 3) : Judged k.toNat t x (completeTerm k x) := by
  by_cases h0 : k = 0#3
  · subst h0
    rw [completeTerm_zero hardware hok]
    exact judged_term0 hok hholds
  by_cases h7 : k = 7#3
  · subst h7
    rw [completeTerm_seven hardware hok]
    exact judged_of_fail (why := .errFormat) (by decide) ⟨by decide, by decide⟩ (fun h => h.2) rfl
  obtain hlen | hlen := le_or_gt t.length 64
  · obtain ⟨hovf, ht⟩ := hholds.fits hlen
    rw [completeTerm_of_fits hardware hok hovf h0 h7]
    have hk : ∀ k : BitVec 3, k ≠ 0#3 → k ≠ 7#3 →
        k = 1#3 ∨ k = 2#3 ∨ k = 3#3 ∨ k = 4#3 ∨ k = 5#3 ∨ k = 6#3 := by decide
    obtain rfl | rfl | rfl | rfl | rfl | rfl := hk k h0 h7
    · exact judged_term1 hok ht hlen
    · exact judged_term2 hok ht hlen
    · exact judged_term3 hok ht hlen
    · exact judged_term4 hok hlen
    · exact judged_term5 hok ht hlen
    · exact judged_term6 hok ht hlen
  · rw [completeTerm_of_oversized hardware hok (hholds.oversized hlen) h0 h7]
    exact judged_of_fail (by decide) errTerm_ofTerms (fun h => absurd h.1 (not_le.mpr hlen)) rfl

end

/-! ## The terms of a body -/

/-- The term list with `pre` before its first term. -/
def prependHead (pre : List Byte) : List (List Byte) → List (List Byte)
  | [] => []
  | t :: ts => (pre ++ t) :: ts

@[simp] theorem prependHead_cons (pre t : List Byte) (ts : List (List Byte)) :
    prependHead pre (t :: ts) = (pre ++ t) :: ts := rfl

theorem prependHead_nil (ts : List (List Byte)) : prependHead [] ts = ts := by cases ts <;> rfl

theorem prependHead_append (a b : List Byte) (ts : List (List Byte)) :
    prependHead a (prependHead b ts) = prependHead (a ++ b) ts := by
  cases ts <;> simp [prependHead]

theorem splitTerms_eq_cons (body : List Byte) : ∃ t ts, splitTerms body = t :: ts := by
  cases body with
  | nil => exact ⟨[], [], rfl⟩
  | cons c rest =>
    rw [splitTerms]
    split
    · exact ⟨_, _, rfl⟩
    · split_ifs <;> exact ⟨_, _, rfl⟩

theorem splitTerms_comma (rest : List Byte) : splitTerms (0x2C#8 :: rest) = [] :: splitTerms rest := by
  obtain ⟨t, ts, h⟩ := splitTerms_eq_cons rest
  simp [splitTerms, h]

theorem splitTerms_cons_of_ne {c : Byte} (hc : c ≠ 0x2C#8) (rest : List Byte) :
    splitTerms (c :: rest) = prependHead [c] (splitTerms rest) := by
  obtain ⟨t, ts, h⟩ := splitTerms_eq_cons rest
  simp [splitTerms, h, hc]

/-! ## The sentence at a point of its body -/

/-- The sentence is in its body, holds the bytes `pre` of its current term, and has no verdict of the checksum check. -/
structure Sentence.Reads (x : Sentence) (pre : List Byte) : Prop where
  inBody : x.InBody
  holds : x.fr.Holds pre
  cause : x.fr.why.OfTerms

theorem reads_sentenceReset : (sentenceReset false).Reads [] :=
  ⟨inBody_sentenceReset, ⟨rfl, rfl⟩, by decide, by decide⟩

section
variable {x : Sentence} {pre : List Byte} (h : x.Reads pre)
include h

theorem Sentence.Reads.next_ordinary {c : Byte} (hc : classify c = .ordinary) : (x.next c).Reads (pre ++ [c]) := by
  obtain ⟨⟨hbusy, hcks⟩, hholds, hcause⟩ := h
  rw [next_of_ordinary hc hbusy]
  refine ⟨⟨by simpa using hbusy, by simpa using hcks⟩, hholds.ordinary c, by simpa using hcause⟩

/-- A comma judges the current term and begins the next (R127). -/
theorem Sentence.Reads.next_comma :
    (x.next 0x2C#8).Reads [] ∧ (x.next 0x2C#8).fr.tidx = nextTerm x.fr.tidx ∧
      (x.fr.why = .ok → Judged x.fr.tidx.toNat pre x (x.next 0x2C#8)) ∧
      (x.fr.why ≠ .ok → (x.next 0x2C#8).fr.why ≠ .ok) := by
  obtain ⟨⟨hbusy, hcks⟩, hholds, hcause⟩ := h
  have hnext : x.next 0x2C#8 = _ := (next_of_comma rfl hbusy).trans (comma_of_body hcks)
  have hjudged (hok : x.fr.why = .ok) : Judged x.fr.tidx.toNat pre x (x.next 0x2C#8) := by
    rw [hnext]
    exact judged_completeTerm (x := x.setAcc (x.fr.acc ^^^ 0x2C#8)) hok ⟨hholds.tbuf, hholds.tovf⟩ _
  have hkept (hbad : x.fr.why ≠ .ok) : (x.next 0x2C#8).fr.why = x.fr.why := by
    rw [hnext, completeTerm_of_failed _ hardware (by simpa using hbad)]; simp
  refine ⟨⟨?_, ?_, ?_⟩, ?_, hjudged, fun hbad => hkept hbad ▸ hbad⟩
  · rw [hnext]
    exact ⟨by simpa using hbusy, by simpa using hcks⟩
  · rw [hnext]
    exact ⟨by simp, by simp⟩
  · by_cases hok : x.fr.why = .ok
    · obtain ⟨-, hstill, -⟩ | ⟨-, -, hof⟩ := hjudged hok
      · rw [hstill]; exact ⟨by decide, by decide⟩
      · exact hof
    · rw [hkept hok]; exact hcause
  · rw [hnext]; simp

/-- The star judges the current term as term 6 (R129). -/
theorem Sentence.Reads.next_star :
    (x.next 0x2A#8).fr.why.OfTerms ∧
      ((x.next 0x2A#8).fr.why = .ok ↔
        x.fr.why = .ok ∧ TermPasses x.fr.tidx.toNat x.st.total.toNat pre ∧ x.fr.tidx = 6#3) := by
  obtain ⟨⟨hbusy, hcks⟩, hholds, hcause⟩ := h
  rw [next_of_star rfl hbusy]
  have hwhy : (completeTerm x.fr.tidx x).fr.why.OfTerms ∧ ((completeTerm x.fr.tidx x).fr.why = .ok ↔
      x.fr.why = .ok ∧ TermPasses x.fr.tidx.toNat x.st.total.toNat pre) := by
    by_cases hok : x.fr.why = .ok
    · obtain ⟨hpass, hstill, -⟩ | ⟨hnot, hbad, hof⟩ := judged_completeTerm hok hholds x.fr.tidx
      · rw [hstill]
        exact ⟨⟨by decide, by decide⟩, iff_of_true rfl ⟨hok, hpass⟩⟩
      · exact ⟨hof, iff_of_false hbad fun h => hnot h.2⟩
    · rw [completeTerm_of_failed _ hardware hok]
      exact ⟨hcause, iff_of_false hok fun h => hok h.1⟩
  obtain ⟨hof, hiff⟩ := hwhy
  by_cases h6 : x.fr.tidx = 6#3
  · rw [star_of_six hcks h6, Sentence.openChecksum_why]
    exact ⟨hof, hiff.trans (by simp [h6])⟩
  · rw [star_of_other hcks h6, Sentence.openChecksum_why]
    refine ⟨?_, iff_of_false (fail_why_ne_ok _ (by decide)) fun h => h6 h.2.2⟩
    by_cases hok : (completeTerm x.fr.tidx x).fr.why = .ok
    · rw [fail_why_of_ok hok]; exact ⟨by decide, by decide⟩
    · rw [fail_of_failed _ hok]; exact hof

end

/-- After a comma the index counts one more completed term, unless the term was an eighth one. -/
theorem toNat_nextTerm_of_passes {k : BitVec 3} {total : Nat} {t : List Byte} (h : TermPasses k.toNat total t) :
    (nextTerm k).toNat = k.toNat + 1 := by
  have hk : ∀ k : BitVec 3, (nextTerm k).toNat = k.toNat + 1 ∨ k = 7#3 := by decide
  obtain heq | rfl := hk k
  · exact heq
  · exact absurd h.2 id

/-- After the star of a body the sentence is unfailed exactly when it was so before and the remaining terms pass. -/
theorem feed_star_why {x : Sentence} {pre : List Byte} (h : x.Reads pre) {body : List Byte}
    (hbody : ∀ c ∈ body, bodyByte c) :
    ((x.feed body).next 0x2A#8).fr.why.OfTerms ∧
      (((x.feed body).next 0x2A#8).fr.why = .ok ↔
        x.fr.why = .ok ∧ TermsPassFrom x.fr.tidx.toNat x.st.total.toNat (prependHead pre (splitTerms body))) := by
  induction body generalizing x pre with
  | nil =>
    obtain ⟨hof, hiff⟩ := h.next_star
    refine ⟨hof, hiff.trans ?_⟩
    simp [splitTerms, TermsPassFrom, BitVec.toNat_eq]
  | cons c body ih =>
    obtain ⟨hc, hrest⟩ := List.forall_mem_cons.mp hbody
    obtain rfl | hc := classify_of_body hc
    · obtain ⟨hreads, hidx, hjudged, hfailed⟩ := h.next_comma
      obtain ⟨hof, hiff⟩ := ih hreads hrest
      refine ⟨hof, hiff.trans ?_⟩
      rw [splitTerms_comma, prependHead_nil, prependHead_cons, List.append_nil, hidx]
      by_cases hok : x.fr.why = .ok
      · obtain ⟨hpass, hstill, htotal⟩ | ⟨hnot, hbad, -⟩ := hjudged hok
        · rw [toNat_nextTerm_of_passes hpass, htotal]
          simp [TermsPassFrom, hpass, hstill, hok]
        · exact iff_of_false (fun hand => hbad hand.1) fun hand => hnot hand.2.1
      · exact iff_of_false (fun hand => hfailed hok hand.1) fun hand => hok hand.1
    · have hcomma : c ≠ 0x2C#8 := by rintro rfl; cases hc
      have hnext : x.next c = ordinary c x := next_of_ordinary hc h.inBody.busy
      obtain ⟨hof, hiff⟩ := ih (h.next_ordinary hc) hrest
      refine ⟨hof, hiff.trans ?_⟩
      rw [splitTerms_cons_of_ne hcomma, prependHead_append, hnext]
      simp

/-! ## The terms that pass, as the statement lists them -/

theorem TermsPassFrom.length {k total : Nat} {ts : List (List Byte)} (h : TermsPassFrom k total ts) : k + ts.length = 7 := by
  induction ts generalizing k total with
  | nil => exact h
  | cons t ts ih =>
    have := ih h.2
    rw [List.length_cons]
    omega

/-- Seven terms pass when each passes its parse step with the total that term 1 gives. -/
theorem termsPassFrom_seven_iff (t0 t1 t2 t3 t4 t5 t6 : List Byte) :
    TermsPassFrom 0 0 [t0, t1, t2, t3, t4, t5, t6] ↔
      TermPasses 0 0 t0 ∧ TermPasses 1 0 t1 ∧ TermPasses 2 ((dec t1).getD 0) t2 ∧ TermPasses 3 ((dec t1).getD 0) t3 ∧
        TermPasses 4 ((dec t1).getD 0) t4 ∧ TermPasses 5 ((dec t1).getD 0) t5 ∧ TermPasses 6 ((dec t1).getD 0) t6 := by
  simp [TermsPassFrom, totalAfter]

theorem termsPass_of_termsPassFrom {terms : List (List Byte)} (h : TermsPassFrom 0 0 terms) : termsPass terms := by
  have hlen : terms.length = 7 := by simpa using h.length
  match terms, hlen with
  | [t0, t1, t2, t3, t4, t5, t6], _ =>
    rw [termsPassFrom_seven_iff] at h
    obtain ⟨⟨-, rfl⟩, ⟨h1, total, htotal, hpos, hle⟩, ⟨h2, hnum⟩, ⟨h3, hid⟩, ⟨h4, -⟩, ⟨h5, hne⟩, ⟨h6, hfill⟩⟩ := h
    rw [htotal, Option.getD_some] at hnum hid
    obtain ⟨num, hnum, hnumpos, hnumle⟩ := hnum
    refine ⟨t1, t2, t3, t4, t5, t6, rfl, ?_, total, num, htotal, hpos, hle, hnum, hnumpos, hnumle, ?_, hne, hfill⟩
    · have h0 : aivdm.length ≤ 64 := by decide
      simp only [List.forall_mem_cons, List.not_mem_nil, false_imp_iff, implies_true, and_true]
      exact ⟨h0, h1, h2, h3, h4, h5, h6⟩
    · exact hid.imp_left fun ⟨hnil, hsmall⟩ => ⟨hnil, by omega⟩

theorem termsPassFrom_of_termsPass {terms : List (List Byte)} (h : termsPass terms) : TermsPassFrom 0 0 terms := by
  obtain ⟨t1, t2, t3, t4, t5, t6, rfl, hlen, total, num, htotal, hpos, hle, hnum, hnumpos, hnumle, hid, hne, hfill⟩ := h
  simp only [List.forall_mem_cons] at hlen
  obtain ⟨h0, h1, h2, h3, h4, h5, h6, -⟩ := hlen
  rw [termsPassFrom_seven_iff, htotal, Option.getD_some]
  exact ⟨⟨h0, rfl⟩, ⟨h1, total, htotal, hpos, hle⟩, ⟨h2, num, hnum, hnumpos, hnumle⟩,
    ⟨h3, hid.imp_left fun ⟨hnil, hone⟩ => ⟨hnil, hone.le⟩⟩, ⟨h4, trivial⟩, ⟨h5, hne⟩, ⟨h6, hfill⟩⟩

theorem termsPassFrom_zero_iff (terms : List (List Byte)) : TermsPassFrom 0 0 terms ↔ termsPass terms :=
  ⟨termsPass_of_termsPassFrom, termsPassFrom_of_termsPass⟩

end Sys2Proof.Machine
end

section
/-! PROOFS. The checksum section of a sentence, and a sentence sent with its own checksum (R140, R141, R147). -/

namespace Sys2Proof.Machine
open Sys2Proof.Claims

/-! ## The checksum field -/

theorem hexField_length {t : List Byte} {n : Nat} (h : hexField t n) : t.length = 2 := by
  obtain ⟨a, b, x, y, rfl, -⟩ := h
  rfl

/-- A field has one value. -/
theorem hexField_value_eq {t : List Byte} {n n' : Nat} (h : hexField t n) (h' : hexField t n') : n = n' := by
  obtain ⟨a, b, x, y, rfl, hx, hy, rfl⟩ := h
  obtain ⟨a', b', x', y', hab, hx', hy', rfl⟩ := h'
  obtain ⟨rfl, rfl⟩ : a = a' ∧ b = b' := by simpa using hab
  rw [Option.some_inj.mp (hx.symm.trans hx'), Option.some_inj.mp (hy.symm.trans hy')]

/-! ## The checksum section -/

/-- The sentence is in its checksum section and has the bytes `t` of its checksum field. -/
structure Sentence.Checks (x : Sentence) (t : List Byte) : Prop where
  busy : x.fr.done = false
  starred : x.fr.cks = true
  holds : x.fr.Holds t

section
variable {x : Sentence}

theorem Sentence.InBody.next_star (h : x.InBody) :
    (x.next 0x2A#8).Checks [] ∧ (x.next 0x2A#8).fr.acc = x.fr.acc := by
  obtain ⟨hbusy, hcks⟩ := h
  rw [next_of_star rfl hbusy]
  refine ⟨⟨star_done.trans hbusy, star_cks, ?_⟩, ?_⟩
  all_goals by_cases h6 : x.fr.tidx = 6#3
  · rw [star_of_six hcks h6]; exact ⟨rfl, rfl⟩
  · rw [star_of_other hcks h6]; exact ⟨rfl, rfl⟩
  · rw [star_of_six hcks h6]; simp
  · rw [star_of_other hcks h6]; simp

/-- The field passes exactly when it is the accumulator in two uppercase hex digits. -/
theorem Framer.Holds.checkChecksum_why_iff {t : List Byte} (h : x.fr.Holds t) (hok : x.fr.why = .ok) :
    (checkChecksum x).fr.why = .ok ↔ hexField t x.fr.acc.toNat := by
  by_cases hfield : t.length ≤ 64 ∧ ∃ n, hexField t n
  · obtain ⟨hlen, n, hn⟩ := hfield
    obtain ⟨hovf, htbuf⟩ := h.fits hlen
    rw [checkChecksum_of_hexField hovf (htbuf.symm ▸ hn)]
    by_cases hacc : n = x.fr.acc.toNat
    · rw [if_neg (not_not.mpr hacc), ← hacc]
      exact iff_of_true hok hn
    · rw [if_pos hacc]
      exact iff_of_false (fail_why_ne_ok x (by decide)) fun h' => hacc (hexField_value_eq hn h')
  · have hbad : x.fr.tovf = true ∨ ¬ ∃ n, hexField x.fr.tbuf n := by
      obtain hlen | hlen := le_or_gt t.length 64
      · rw [(h.fits hlen).2]
        exact .inr fun hn => hfield ⟨hlen, hn⟩
      · exact .inl (h.oversized hlen)
    rw [checkChecksum_of_not_hexField hbad]
    refine iff_of_false (fail_why_ne_ok x (by decide)) fun hn => hfield ⟨?_, _, hn⟩
    rw [hexField_length hn]
    decide

variable {t : List Byte} (h : x.Checks t)
include h

/-- A byte of the checksum field is stored and not XORed (R126). -/
theorem Sentence.Checks.next_ordinary {c : Byte} (hc : classify c = .ordinary) :
    (x.next c).Checks (t ++ [c]) ∧ (x.next c).fr.acc = x.fr.acc ∧ (x.next c).fr.why = x.fr.why := by
  obtain ⟨hbusy, hcks, hholds⟩ := h
  rw [next_of_ordinary hc hbusy]
  exact ⟨⟨by simpa using hbusy, by simpa using hcks, hholds.ordinary c⟩, by simp [hcks], by simp⟩

/-- A terminator accepts an unfailed sentence whose field is the accumulator in hex (R130, R140, R141). -/
theorem Sentence.Checks.accepts_iff {c : Byte} (hc : classify c = .terminator) :
    x.Accepts c ↔ x.fr.why = .ok ∧ hexField t x.fr.acc.toNat := by
  obtain ⟨hbusy, hcks, hholds⟩ := h
  constructor
  · rintro ⟨-, -, hvalid⟩
    obtain ⟨-, hok, -⟩ := closeCheck_ok hvalid
    rw [closeCheck_of_checksum hardware hok hcks] at hvalid
    exact ⟨hok, (hholds.checkChecksum_why_iff hok).mp hvalid⟩
  · rintro ⟨hok, hfield⟩
    refine ⟨hc, hbusy, ?_⟩
    rw [closeCheck_of_checksum hardware hok hcks]
    exact (hholds.checkChecksum_why_iff hok).mpr hfield

end

/-! ## A whole sentence -/

/-- A sentence after its start marker, its body and the star: what it holds and whether its terms passed. -/
theorem feed_body_star {body : List Byte} (hbody : ∀ c ∈ body, bodyByte c) :
    (((sentenceReset false).feed body).next 0x2A#8).Checks [] ∧
      (((sentenceReset false).feed body).next 0x2A#8).fr.acc = xorBytes body ∧
      (((sentenceReset false).feed body).next 0x2A#8).fr.why.OfTerms ∧
      ((((sentenceReset false).feed body).next 0x2A#8).fr.why = .ok ↔ termsPass (splitTerms body)) := by
  obtain ⟨hin, hacc⟩ := inBody_sentenceReset.feed hbody
  obtain ⟨hchecks, hkeep⟩ := hin.next_star
  obtain ⟨hof, hiff⟩ := feed_star_why reads_sentenceReset hbody
  rw [prependHead_nil] at hiff
  refine ⟨hchecks, hkeep.trans hacc, hof, hiff.trans ?_⟩
  rw [← termsPassFrom_zero_iff]
  exact and_iff_right rfl

/-- A sentence up to its terminator: its checksum field, its accumulator and its verdict so far. -/
theorem feed_sentence {body : List Byte} (hbody : ∀ c ∈ body, bodyByte c) {h1 h2 : Byte} (hh1 : classify h1 = .ordinary)
    (hh2 : classify h2 = .ordinary) {x : Sentence} (hx : x = (sentenceReset false).feed (body ++ [0x2A#8, h1, h2])) :
    x.Checks [h1, h2] ∧ x.fr.acc = xorBytes body ∧ x.fr.why.OfTerms ∧ (x.fr.why = .ok ↔ termsPass (splitTerms body)) := by
  obtain ⟨hchecks, hacc, hof, hiff⟩ := feed_body_star hbody
  obtain ⟨hchecks1, hacc1, hwhy1⟩ := hchecks.next_ordinary hh1
  obtain ⟨hchecks2, hacc2, hwhy2⟩ := hchecks1.next_ordinary hh2
  rw [feed_append, feed_cons, feed_cons, feed_cons, feed_nil] at hx
  rw [hx, hacc2, hacc1, hwhy2, hwhy1]
  exact ⟨hchecks2, hacc, hof, hiff⟩

/-- The whole sentence is accepted when its terms pass and its field is the XOR of its body. -/
theorem accepts_sentence_iff {body : List Byte} (hbody : ∀ c ∈ body, bodyByte c) {h1 h2 e : Byte}
    (hh1 : classify h1 = .ordinary) (hh2 : classify h2 = .ordinary) (he : classify e = .terminator) :
    ((sentenceReset false).feed (body ++ [0x2A#8, h1, h2])).Accepts e ↔
      termsPass (splitTerms body) ∧ hexField [h1, h2] (xorBytes body).toNat := by
  obtain ⟨hchecks, hacc, -, hiff⟩ := feed_sentence hbody hh1 hh2 rfl
  rw [hchecks.accepts_iff he, hacc, hiff]

/-! ## A sentence with its own checksum (R147) -/

theorem classify_of_hexDigit {c : Byte} {n : Nat} (h : hexDigit c = some n) : classify c = .ordinary := by
  refine classify_of_ordinary ⟨?_, ?_, ?_, ?_, ?_⟩ ?_ <;> rintro rfl <;> exact absurd h (by simp [hexDigit])

theorem classify_of_hexField {h1 h2 : Byte} {n : Nat} (h : hexField [h1, h2] n) :
    classify h1 = .ordinary ∧ classify h2 = .ordinary := by
  obtain ⟨a, b, x, y, hab, hx, hy, -⟩ := h
  obtain ⟨rfl, rfl⟩ : h1 = a ∧ h2 = b := by simpa using hab
  exact ⟨classify_of_hexDigit hx, classify_of_hexDigit hy⟩

/-- A sentence that closes unaccepted, its failure from its terms, reports no verdict of the checksum check. -/
theorem closeStatus_of_ofTerms {why : Cause} (h : why.OfTerms) :
    why.closeStatus ≠ .errHex ∧ why.closeStatus ≠ .errChecksum := by
  cases why <;> simp_all [Cause.OfTerms, Cause.closeStatus]

/-- The close of a sentence whose field is right: a FRAGMENT when it is unfailed, and else the cause its terms gave. -/
theorem DecodeEffect.status_of_checks {c : Byte} {x : Sentence} {t : List Byte} {fifo fifo' : List Partial}
    {loaded : Option Payload} {r : Result} (heff : DecodeEffect c x fifo fifo' loaded r) (hc : classify c = .terminator)
    (hchecks : x.Checks t) (hof : x.fr.why.OfTerms) (hfield : hexField t x.fr.acc.toNat) :
    r.status ≠ .errHex ∧ r.status ≠ .errChecksum ∧ (r.status = .fragment ↔ x.fr.why = .ok) := by
  have hiff : r.status = .fragment ↔ x.fr.why = .ok :=
    heff.fragment_iff.trans ((hchecks.accepts_iff hc).trans (and_iff_left hfield))
  rw [hiff, ← and_assoc]
  refine ⟨?_, Iff.rfl⟩
  by_cases hok : x.fr.why = .ok
  · rw [hiff.mpr hok]
    decide
  · have hfailed := heff.failed hc hchecks.busy
    rw [closeCheck_of_failed hardware hok] at hfailed
    rw [hfailed hok]
    exact closeStatus_of_ofTerms hof

/-- Settles O50: the bytes before the terminator close nothing, and the field is right, so the terms alone decide. -/
theorem sentSentenceAcceptedExactlyWhenTermsPass : Obligations.SentSentenceAcceptedExactlyWhenTermsPass := by
  unfold Obligations.SentSentenceAcceptedExactlyWhenTermsPass
  intro s m body hm hbody
  obtain ⟨h1, h2, hpair, hfield⟩ :
      ∃ h1 h2, hexPair (xorBytes body) = [h1, h2] ∧ hexField [h1, h2] (xorBytes body).toNat :=
    ⟨_, _, rfl, hexField_hexPair (xorBytes body)⟩
  obtain ⟨hh1, hh2⟩ := classify_of_hexField hfield
  have hopen : ∀ c ∈ m :: (body ++ [0x2A#8, h1, h2]), classify c ≠ .terminator := by
    rw [← List.cons_append, List.forall_mem_append]
    refine ⟨sentence_bytes_not_terminator hm hbody, ?_⟩
    simp [hh1, hh2, show classify 0x2A#8 = .star from rfl]
  have hfeed : s.sentence.feed (m :: (body ++ [0x2A#8, h1, h2])) =
      (sentenceReset false).feed (body ++ [0x2A#8, h1, h2]) := by
    rw [feed_cons, next_of_start (classify_of_start hm)]
  obtain ⟨hchecks, hacc, hof, hiff⟩ := feed_sentence hbody hh1 hh2 hfeed
  obtain ⟨fifo', loaded, r, heff⟩ := exec_decode_effect 0x0D#8 (s.sentence.feed (m :: (body ++ [0x2A#8, h1, h2]))) s.fifo
  obtain ⟨hhex, hchecksum, hfragment⟩ := heff.status_of_checks rfl hchecks hof (hacc ▸ hfield)
  obtain ⟨t, hrun, hsentence, hresults⟩ := performAll_decode_concat hopen heff
  refine ⟨t, r, ?_, by simpa using hresults, hsentence.trans (next_of_terminator rfl hchecks.busy), hhex, hchecksum,
    hfragment.trans hiff⟩
  simpa [hpair] using hrun

end Sys2Proof.Machine
end

section
/-! PROOFS. Sentences that are not accepted, and the change of one byte of an accepted one (R144). -/

namespace Sys2Proof.Machine
open Sys2Proof.Claims

/-! ## Runs that accept nothing -/

/-- A run without terminators accepts nothing. -/
theorem neverAccepts_of_no_terminator {bytes : List Byte} (h : ∀ c ∈ bytes, classify c ≠ .terminator) (x : Sentence) :
    NeverAccepts bytes x := by
  induction bytes generalizing x with
  | nil => trivial
  | cons c rest ih =>
    obtain ⟨hc, hrest⟩ := List.forall_mem_cons.mp h
    exact ⟨not_accepts_of_not_terminator hc, ih hrest _⟩

/-- An unstarred sentence is accepted by no byte (R130). -/
theorem not_accepts_of_unstarred {x : Sentence} (h : x.fr.cks = false) (c : Byte) : ¬ x.Accepts c := fun ha => by
  obtain ⟨hcks, -⟩ := closeCheck_ok ha.valid
  simp [h] at hcks

/-- Only a star opens the checksum section (R129). -/
theorem next_unstarred {x : Sentence} (h : x.fr.cks = false) {c : Byte} (hc : classify c ≠ .star) :
    (x.next c).fr.cks = false := by
  by_cases hs : classify c = .start
  · rw [next_of_start hs]; rfl
  cases hd : x.fr.done with
  | true => rw [next_of_idle hs hd]; exact h
  | false =>
    cases hk : classify c with
    | start => exact absurd hk hs
    | ordinary => rw [next_of_ordinary hk hd, ordinary_cks]; exact h
    | comma => rw [next_of_comma hk hd, comma_cks]; exact h
    | star => exact absurd hk hc
    | terminator => rw [next_of_terminator hk hd]; rfl

/-- A run without stars accepts nothing from an unstarred sentence. -/
theorem neverAccepts_of_unstarred {bytes : List Byte} (h : ∀ c ∈ bytes, classify c ≠ .star) {x : Sentence}
    (hx : x.fr.cks = false) : NeverAccepts bytes x := by
  induction bytes generalizing x with
  | nil => trivial
  | cons c rest ih =>
    obtain ⟨hc, hrest⟩ := List.forall_mem_cons.mp h
    exact ⟨not_accepts_of_unstarred hx c, ih hrest (next_unstarred hx hc)⟩

/-- The sentence is idle or failed: no byte accepts it, and only a start marker begins another (R122, R124). -/
def Sentence.Dead (x : Sentence) : Prop := x.fr.done = true ∨ x.fr.why ≠ .ok

theorem Sentence.Dead.not_accepts {x : Sentence} (h : x.Dead) (c : Byte) : ¬ x.Accepts c := fun ha => by
  obtain ⟨-, hok, -⟩ := closeCheck_ok ha.valid
  obtain hidle | hbad := h
  · exact absurd (hidle.symm.trans ha.busy) (by decide)
  · exact hbad hok

/-- A failed sentence stays failed through a comma and a star. -/
theorem comma_why_of_failed {x : Sentence} (h : x.fr.why ≠ .ok) : (comma x).fr.why ≠ .ok := by
  cases hc : x.fr.cks with
  | true => rw [comma_of_checksum hc]; exact fail_why_ne_ok x (by decide)
  | false =>
    rw [comma_of_body hc, completeTerm_of_failed _ hardware (by simpa using h)]
    simpa using h

theorem star_why_of_failed {x : Sentence} (h : x.fr.why ≠ .ok) : (star x).fr.why ≠ .ok := by
  cases hc : x.fr.cks with
  | true => rw [star_of_checksum hc]; exact fail_why_ne_ok x (by decide)
  | false =>
    by_cases h6 : x.fr.tidx = 6#3
    · rw [star_of_six hc h6, completeTerm_of_failed _ hardware h]; exact h
    · rw [star_of_other hc h6]; exact fail_why_ne_ok _ (by decide)

theorem Sentence.Dead.next {x : Sentence} (h : x.Dead) {c : Byte} (hc : classify c ≠ .start) : (x.next c).Dead := by
  cases hd : x.fr.done with
  | true => rw [next_of_idle hc hd]; exact h
  | false =>
    have hbad : x.fr.why ≠ .ok := h.resolve_left (by simp [hd])
    cases hk : classify c with
    | start => exact absurd hk hc
    | ordinary => rw [next_of_ordinary hk hd]; exact .inr (by simpa using hbad)
    | comma => rw [next_of_comma hk hd]; exact .inr (comma_why_of_failed hbad)
    | star => rw [next_of_star hk hd]; exact .inr (star_why_of_failed hbad)
    | terminator => rw [next_of_terminator hk hd]; exact .inl rfl

/-- A run without start markers accepts nothing from a dead sentence. -/
theorem neverAccepts_of_dead {bytes : List Byte} (h : ∀ c ∈ bytes, classify c ≠ .start) {x : Sentence} (hx : x.Dead) :
    NeverAccepts bytes x := by
  induction bytes generalizing x with
  | nil => trivial
  | cons c rest ih =>
    obtain ⟨hc, hrest⟩ := List.forall_mem_cons.mp h
    exact ⟨hx.not_accepts c, ih hrest (hx.next hc)⟩

/-- After a terminator the framer is idle. -/
theorem next_terminator_dead {x : Sentence} {c : Byte} (hc : classify c = .terminator) : (x.next c).Dead := by
  cases hd : x.fr.done with
  | true => rw [next_of_idle (by simp [hc]) hd]; exact .inl hd
  | false => rw [next_of_terminator hc hd]; exact .inl rfl

/-! ## The checksum section of an accepted sentence -/

/-- A byte of the checksum section that is not ordinary leaves a dead sentence, or one just begun. -/
theorem Sentence.Checks.next_other {x : Sentence} {t : List Byte} (h : x.Checks t) {c : Byte}
    (hc : classify c ≠ .ordinary) : (x.next c).Dead ∨ x.next c = sentenceReset false := by
  obtain ⟨hbusy, hcks, -⟩ := h
  cases hk : classify c with
  | start => exact .inr (next_of_start hk)
  | ordinary => exact absurd hk hc
  | comma =>
    rw [next_of_comma hk hbusy, comma_of_checksum hcks]
    exact .inl (.inr (fail_why_ne_ok x (by decide)))
  | star =>
    rw [next_of_star hk hbusy, star_of_checksum hcks]
    exact .inl (.inr (fail_why_ne_ok x (by decide)))
  | terminator => exact .inl (next_terminator_dead hk)

/-- A sentence just begun is not accepted two bytes later: a star so early fails it (R129). -/
theorem not_accepts_next_of_begun (c e : Byte) : ¬ ((sentenceReset false).next c).Accepts e := by
  by_cases hc : classify c = .star
  · rw [next_of_star hc rfl]
    exact Sentence.Dead.not_accepts (.inr (by decide)) e
  · exact not_accepts_of_unstarred (next_unstarred rfl hc) e

theorem Sentence.Dead.not_accepts_next {x : Sentence} (h : x.Dead) (c e : Byte) : ¬ (x.next c).Accepts e := by
  by_cases hc : classify c = .start
  · rw [next_of_start hc]; exact not_accepts_of_unstarred rfl e
  · exact (h.next hc).not_accepts e

/-- A field that is not two bytes long is not accepted (R140). -/
theorem Sentence.Checks.not_accepts_of_length {x : Sentence} {t : List Byte} (h : x.Checks t) (hlen : t.length ≠ 2)
    (c : Byte) : ¬ x.Accepts c := fun ha => by
  obtain ⟨-, hfield⟩ := (h.accepts_iff ha.terminator).mp ha
  exact hlen (hexField_length hfield)

/-- After such a byte a run without start markers and stars accepts nothing. -/
theorem Sentence.Checks.neverAccepts_of_other {x : Sentence} {t : List Byte} (h : x.Checks t) {c : Byte}
    (hc : classify c ≠ .ordinary) {bytes : List Byte} (hstart : ∀ d ∈ bytes, classify d ≠ .start)
    (hstar : ∀ d ∈ bytes, classify d ≠ .star) : NeverAccepts bytes (x.next c) := by
  obtain hdead | hbegun := h.next_other hc
  · exact neverAccepts_of_dead hstart hdead
  · exact neverAccepts_of_unstarred hstar (by rw [hbegun]; rfl)

/-- The two bytes of an accepted checksum field are ordinary. -/
theorem Sentence.Checks.ordinary_of_accepts {x : Sentence} (h : x.Checks []) {h1 h2 e : Byte}
    (hacc : ((x.next h1).next h2).Accepts e) : classify h1 = .ordinary ∧ classify h2 = .ordinary := by
  have hh1 : classify h1 = .ordinary := by
    by_contra hc
    obtain hdead | hbegun := h.next_other hc
    · exact hdead.not_accepts_next h2 e hacc
    · exact not_accepts_next_of_begun h2 e (hbegun ▸ hacc)
  obtain ⟨hchecks, -⟩ := h.next_ordinary hh1
  refine ⟨hh1, ?_⟩
  by_contra hc
  obtain hdead | hbegun := hchecks.next_other hc
  · exact hdead.not_accepts e hacc
  · exact not_accepts_of_unstarred (by rw [hbegun]; rfl) e hacc

/-! ## What one accepted sentence says -/

/-- The parts of a sentence that is accepted: its body, its checksum field and its terminator. -/
structure AcceptedSentence (body : List Byte) (h1 h2 e : Byte) : Prop where
  plain : ∀ c ∈ body, bodyByte c
  terms : termsPass (splitTerms body)
  field : hexField [h1, h2] (xorBytes body).toNat
  terminator : classify e = .terminator

theorem acceptedSentence_of_accepts {body : List Byte} (hbody : ∀ c ∈ body, bodyByte c) {h1 h2 e : Byte}
    (h : ((sentenceReset false).feed (body ++ [0x2A#8, h1, h2])).Accepts e) : AcceptedSentence body h1 h2 e := by
  obtain ⟨hchecks, -⟩ := feed_body_star hbody
  obtain ⟨hh1, hh2⟩ := hchecks.ordinary_of_accepts (by simpa using h)
  obtain ⟨hterms, hfield⟩ := (accepts_sentence_iff hbody hh1 hh2 h.terminator).mp h
  exact ⟨hbody, hterms, hfield, h.terminator⟩

/-! ## Each changed byte -/

/-! ### The digits of the field -/

theorem hexDigit_injective {a b : Byte} {n : Nat} (ha : hexDigit a = some n) (hb : hexDigit b = some n) : a = b := by
  rw [hexDigit_eq_some_iff] at ha hb
  exact BitVec.eq_of_toNat_eq (by omega)

/-- A value has one field. -/
theorem hexField_digits_eq {a b a' b' : Byte} {n : Nat} (h : hexField [a, b] n) (h' : hexField [a', b'] n) :
    a = a' ∧ b = b' := by
  obtain ⟨c, d, x, y, hcd, hx, hy, rfl⟩ := h
  obtain ⟨c', d', x', y', hcd', hx', hy', hn⟩ := h'
  obtain ⟨rfl, rfl⟩ : a = c ∧ b = d := by simpa using hcd
  obtain ⟨rfl, rfl⟩ : a' = c' ∧ b' = d' := by simpa using hcd'
  have hlow : y < 16 ∧ y' < 16 := by
    rw [hexDigit_eq_some_iff] at hy hy'
    omega
  obtain rfl : x = x' := by omega
  obtain rfl : y = y' := by omega
  exact ⟨hexDigit_injective hx hx', hexDigit_injective hy hy'⟩

/-! ### The XOR of the body -/

theorem foldl_xor (a : Byte) (bytes : List Byte) : bytes.foldl (fun acc c => acc ^^^ c) a = a ^^^ xorBytes bytes := by
  induction bytes generalizing a with
  | nil => simp [xorBytes]
  | cons c rest ih => rw [xorBytes, List.foldl_cons, List.foldl_cons, ih, ih (0#8 ^^^ c), BitVec.zero_xor, BitVec.xor_assoc]

theorem xorBytes_cons (c : Byte) (bytes : List Byte) : xorBytes (c :: bytes) = c ^^^ xorBytes bytes := by
  rw [xorBytes, List.foldl_cons, foldl_xor, BitVec.zero_xor]

theorem xorBytes_append (a b : List Byte) : xorBytes (a ++ b) = xorBytes a ^^^ xorBytes b := by
  rw [xorBytes, List.foldl_append, foldl_xor]
  rfl

/-- The XOR tells any byte of the body. -/
theorem xorBytes_middle_injective {front rest : List Byte} {b c : Byte}
    (h : xorBytes (front ++ b :: rest) = xorBytes (front ++ c :: rest)) : b = c := by
  rw [xorBytes_append, xorBytes_append, BitVec.xor_right_inj, xorBytes_cons, xorBytes_cons, BitVec.xor_left_inj] at h
  exact h

/-! ### The terms of a body and of a part of it -/

/-- The terms of two runs joined: the last of the first and the first of the second are one. -/
theorem splitTerms_append (a b : List Byte) :
    ∃ front pre, splitTerms a = front ++ [pre] ∧ splitTerms (a ++ b) = front ++ prependHead pre (splitTerms b) := by
  induction a with
  | nil => exact ⟨[], [], rfl, (prependHead_nil _).symm⟩
  | cons c a ih =>
    obtain ⟨front, pre, ha, hab⟩ := ih
    by_cases hc : c = 0x2C#8
    · subst hc
      exact ⟨[] :: front, pre, by rw [splitTerms_comma, ha]; rfl, by rw [List.cons_append, splitTerms_comma, hab]; rfl⟩
    · rw [List.cons_append, splitTerms_cons_of_ne hc, splitTerms_cons_of_ne hc, ha, hab]
      cases front with
      | nil => exact ⟨[], [c] ++ pre, rfl, prependHead_append ..⟩
      | cons t front => exact ⟨([c] ++ t) :: front, pre, rfl, rfl⟩

theorem eq_nil_of_splitTerms {a : List Byte} (h : splitTerms a = [[]]) : a = [] := by
  cases a with
  | nil => rfl
  | cons c a =>
    obtain ⟨t, ts, ha⟩ := splitTerms_eq_cons a
    by_cases hc : c = 0x2C#8
    · subst hc
      simp [splitTerms_comma, ha] at h
    · simp [splitTerms_cons_of_ne hc, ha] at h

theorem termsPass_eq_cons {terms : List (List Byte)} (h : termsPass terms) : ∃ ts, terms = aivdm :: ts ∧ ts.length = 6 := by
  obtain ⟨t1, t2, t3, t4, t5, t6, rfl, -⟩ := h
  exact ⟨_, rfl, rfl⟩

/-- A proper end of a body whose terms pass is no body whose terms pass: both begin with the identifier and have seven
terms. -/
theorem not_termsPass_of_suffix {a b : List Byte} (ha : a ≠ []) (hab : termsPass (splitTerms (a ++ b))) :
    ¬ termsPass (splitTerms b) := by
  intro hb
  obtain ⟨ts, hab, hlen⟩ := termsPass_eq_cons hab
  obtain ⟨ts', hb, hlen'⟩ := termsPass_eq_cons hb
  obtain ⟨front, pre, hsplit, hjoin⟩ := splitTerms_append a b
  rw [hab, hb, prependHead_cons] at hjoin
  have hfront : front = [] := by
    have := congrArg List.length hjoin
    simp only [List.length_append, List.length_cons, hlen, hlen'] at this
    exact List.eq_nil_of_length_eq_zero (by omega)
  subst hfront
  have hpre : pre = [] ∧ ts = ts' := by simpa using hjoin
  exact ha (eq_nil_of_splitTerms (by simpa [hpre.1] using hsplit))

/-! ### Where the byte stands -/

theorem bodyByte_of_classify {c : Byte} (hstart : classify c ≠ .start) (hstar : classify c ≠ .star)
    (hterm : classify c ≠ .terminator) : bodyByte c := by
  refine ⟨?_, ?_, ?_, ?_, ?_⟩ <;> rintro rfl
  · exact hstart rfl
  · exact hstart rfl
  · exact hstar rfl
  · exact hterm rfl
  · exact hterm rfl

theorem classify_eq_star_iff {c : Byte} : classify c = .star ↔ c = 0x2A#8 := by
  refine ⟨fun h => ?_, fun h => h ▸ rfl⟩
  unfold classify at h
  split_ifs at h with _ _ hstar
  exact hstar

theorem classify_eq_start_iff {c : Byte} : classify c = .start ↔ c = 0x24#8 ∨ c = 0x21#8 := by
  refine ⟨fun h => ?_, classify_of_start⟩
  unfold classify at h
  split_ifs at h with hstart
  exact hstart

/-- A second star fails the sentence, whatever body bytes stand between (R129). -/
theorem dead_of_second_star {x : Sentence} (hbusy : x.fr.done = false) (hcks : x.fr.cks = true) {bytes : List Byte}
    (hbytes : ∀ c ∈ bytes, bodyByte c) : (x.feed (bytes ++ [0x2A#8])).Dead := by
  induction bytes generalizing x with
  | nil =>
    rw [List.nil_append, feed_cons, feed_nil, next_of_star rfl hbusy, star_of_checksum hcks]
    exact .inr (fail_why_ne_ok x (by decide))
  | cons c rest ih =>
    obtain ⟨hc, hrest⟩ := List.forall_mem_cons.mp hbytes
    rw [List.cons_append, feed_cons]
    obtain rfl | hc := classify_of_body hc
    · rw [next_of_comma rfl hbusy]
      exact ih (comma_done.trans hbusy) (comma_cks.trans hcks) hrest
    · rw [next_of_ordinary hc hbusy]
      exact ih ((ordinary_done x c).trans hbusy) ((ordinary_cks x c).trans hcks) hrest

/-- The bytes of a sentence up to its terminator terminate nothing. -/
theorem body_field_not_terminator {body : List Byte} (hbody : ∀ c ∈ body, bodyByte c) {h1 h2 : Byte}
    (hh1 : classify h1 = .ordinary) (hh2 : classify h2 = .ordinary) :
    ∀ c ∈ body ++ [0x2A#8, h1, h2], classify c ≠ .terminator := by
  have hstar : classify 0x2A#8 ≠ .terminator := by decide
  rw [List.forall_mem_append]
  exact ⟨fun c hc => classify_ne_terminator_of_body (hbody c hc), by simp [hh1, hh2, hstar]⟩

/-- A sentence that its terminator does not accept is followed by a line feed in idle, which accepts nothing. -/
theorem neverAccepts_sentence {body : List Byte} (hbody : ∀ c ∈ body, bodyByte c) {h1 h2 e : Byte}
    (hh1 : classify h1 = .ordinary) (hh2 : classify h2 = .ordinary) (he : classify e = .terminator)
    (h : termsPass (splitTerms body) → ¬ hexField [h1, h2] (xorBytes body).toNat) :
    NeverAccepts (body ++ [0x2A#8, h1, h2, e, 0x0A#8]) (sentenceReset false) := by
  have hsplit : body ++ [0x2A#8, h1, h2, e, 0x0A#8] = body ++ [0x2A#8, h1, h2] ++ [e, 0x0A#8] := by simp
  rw [hsplit, neverAccepts_append]
  refine ⟨neverAccepts_of_no_terminator (body_field_not_terminator hbody hh1 hh2) _, ?_,
    (next_terminator_dead he).not_accepts _, trivial⟩
  rw [accepts_sentence_iff hbody hh1 hh2 he]
  exact fun ⟨hterms, hfield⟩ => h hterms hfield

/-- Up to the first byte that does not belong to the body, a sentence accepts nothing. -/
theorem neverAccepts_of_body {front : List Byte} (hfront : ∀ d ∈ front, bodyByte d) {b : Byte} {bytes : List Byte}
    (h : NeverAccepts bytes (((sentenceReset false).feed front).next b)) :
    NeverAccepts (front ++ b :: bytes) (sentenceReset false) := by
  have hin := (inBody_sentenceReset.feed hfront).1
  rw [neverAccepts_append]
  exact ⟨neverAccepts_of_no_terminator (fun d hd => classify_ne_terminator_of_body (hfront d hd)) _,
    not_accepts_of_unstarred hin.starless b, h⟩

namespace AcceptedSentence

section
variable {body front rest : List Byte} {b c h1 h2 e : Byte}

section
variable (h : AcceptedSentence body h1 h2 e)
include h

theorem field_ordinary : classify h1 = .ordinary ∧ classify h2 = .ordinary := classify_of_hexField h.field

/-- The bytes after the body hold no start marker. -/
theorem tail_not_start : ∀ d ∈ [0x2A#8, h1, h2, e, 0x0A#8], classify d ≠ .start := by
  obtain ⟨hh1, hh2⟩ := h.field_ordinary
  have hstar : classify 0x2A#8 ≠ .start := by decide
  have hlf : classify 0x0A#8 ≠ .start := by decide
  simp [hh1, hh2, h.terminator, hstar, hlf]

/-- A terminator and a line feed after it neither start nor star a sentence. -/
theorem ending_terminator : ∀ d ∈ [e, 0x0A#8], classify d = .terminator := by
  have hlf : classify 0x0A#8 = .terminator := rfl
  simp [h.terminator, hlf]

/-- The bytes after the star hold no star. -/
theorem field_not_star : ∀ d ∈ [h1, h2, e, 0x0A#8], classify d ≠ .star := by
  obtain ⟨hh1, hh2⟩ := h.field_ordinary
  have hlf : classify 0x0A#8 ≠ .star := by decide
  simp [hh1, hh2, h.terminator, hlf]

theorem body_not_start : ∀ d ∈ body, classify d ≠ .start := fun d hd => classify_ne_start_of_body (h.plain d hd)

/-- The start marker changed to a byte that starts nothing: the framer stays idle. -/
theorem change_start (hb : classify b ≠ .start) :
    NeverAccepts (b :: (body ++ [0x2A#8, h1, h2, e, 0x0A#8])) (sentenceReset true) := by
  refine neverAccepts_of_dead ?_ (.inl rfl)
  rw [List.forall_mem_cons, List.forall_mem_append]
  exact ⟨hb, h.body_not_start, h.tail_not_start⟩

/-- The star changed: the sentence closes unstarred. -/
theorem change_star (hb : b ≠ 0x2A#8) :
    NeverAccepts (body ++ [b, h1, h2, e, 0x0A#8]) (sentenceReset false) := by
  have hin := (inBody_sentenceReset.feed h.plain).1
  exact neverAccepts_of_body h.plain
    (neverAccepts_of_unstarred h.field_not_star (next_unstarred hin.starless (mt classify_eq_star_iff.mp hb)))

/-- The first digit changed. -/
theorem change_first_digit (hb : b ≠ h1) : NeverAccepts (body ++ [0x2A#8, b, h2, e, 0x0A#8]) (sentenceReset false) := by
  obtain ⟨hh1, hh2⟩ := h.field_ordinary
  by_cases hc : classify b = .ordinary
  · exact neverAccepts_sentence h.plain hc hh2 h.terminator fun _ hfield => hb (hexField_digits_eq hfield h.field).1
  · obtain ⟨hchecks, -⟩ := feed_body_star h.plain
    have hrest : ∀ d ∈ [h2, e, 0x0A#8], classify d = .ordinary ∨ classify d = .terminator :=
      List.forall_mem_cons.mpr ⟨.inl hh2, fun d hd => .inr (h.ending_terminator d hd)⟩
    refine neverAccepts_of_body h.plain
      ⟨hchecks.not_accepts_of_length (by decide) b, hchecks.neverAccepts_of_other hc (fun d hd => ?_) (fun d hd => ?_)⟩
    all_goals obtain hd | hd := hrest d hd <;> simp [hd]

/-- The second digit changed. -/
theorem change_second_digit (hb : b ≠ h2) : NeverAccepts (body ++ [0x2A#8, h1, b, e, 0x0A#8]) (sentenceReset false) := by
  obtain ⟨hh1, hh2⟩ := h.field_ordinary
  by_cases hc : classify b = .ordinary
  · exact neverAccepts_sentence h.plain hh1 hc h.terminator fun _ hfield => hb (hexField_digits_eq hfield h.field).2
  · obtain ⟨hchecks, -⟩ := feed_body_star h.plain
    obtain ⟨hchecks1, -⟩ := hchecks.next_ordinary hh1
    exact neverAccepts_of_body h.plain
      ⟨hchecks.not_accepts_of_length (by decide) h1, hchecks1.not_accepts_of_length (by simp) b,
        hchecks1.neverAccepts_of_other hc (fun d hd => by simp [h.ending_terminator d hd]) fun d hd => by
          simp [h.ending_terminator d hd]⟩

/-- The terminator changed to a byte that terminates nothing: the line feed meets three bytes, or no valid sentence. -/
theorem change_terminator (hb : classify b ≠ .terminator) :
    NeverAccepts (body ++ [0x2A#8, h1, h2, b, 0x0A#8]) (sentenceReset false) := by
  obtain ⟨hh1, hh2⟩ := h.field_ordinary
  obtain ⟨hchecks, -⟩ := feed_body_star h.plain
  obtain ⟨hchecks1, -⟩ := hchecks.next_ordinary hh1
  obtain ⟨hchecks2, -⟩ := hchecks1.next_ordinary hh2
  refine neverAccepts_of_body h.plain ⟨hchecks.not_accepts_of_length (by decide) h1,
    hchecks1.not_accepts_of_length (by simp) h2, not_accepts_of_not_terminator hb, ?_⟩
  by_cases hc : classify b = .ordinary
  · obtain ⟨hchecks3, -⟩ := hchecks2.next_ordinary hc
    exact ⟨hchecks3.not_accepts_of_length (by simp) _, trivial⟩
  · exact hchecks2.neverAccepts_of_other hc (by decide) (by decide)

end

/-! A byte of the body changed, by the class of the new byte. -/

section
variable (h : AcceptedSentence (front ++ c :: rest) h1 h2 e)
include h

theorem front_plain : ∀ d ∈ front, bodyByte d := (List.forall_mem_append.mp h.plain).1

theorem rest_plain : ∀ d ∈ rest, bodyByte d := (List.forall_mem_cons.mp (List.forall_mem_append.mp h.plain).2).2

theorem rest_not_start : ∀ d ∈ rest ++ [0x2A#8, h1, h2, e, 0x0A#8], classify d ≠ .start :=
  List.forall_mem_append.mpr ⟨fun d hd => classify_ne_start_of_body (h.rest_plain d hd), h.tail_not_start⟩

/-- Another body byte: the XOR is another one, and the field is wrong. -/
theorem change_body_to_body (hbody : bodyByte b) (hb : b ≠ c) :
    NeverAccepts (front ++ b :: (rest ++ [0x2A#8, h1, h2, e, 0x0A#8])) (sentenceReset false) := by
  obtain ⟨hh1, hh2⟩ := h.field_ordinary
  have hplain : ∀ d ∈ front ++ b :: rest, bodyByte d :=
    List.forall_mem_append.mpr ⟨h.front_plain, List.forall_mem_cons.mpr ⟨hbody, h.rest_plain⟩⟩
  have hnever := neverAccepts_sentence hplain hh1 hh2 h.terminator fun _ hfield =>
    hb (xorBytes_middle_injective (BitVec.eq_of_toNat_eq (hexField_value_eq hfield h.field)))
  simpa using hnever

/-- A start marker: the rest of the body is a sentence of its own, and its terms do not pass. -/
theorem change_body_to_start (hb : classify b = .start) :
    NeverAccepts (front ++ b :: (rest ++ [0x2A#8, h1, h2, e, 0x0A#8])) (sentenceReset false) := by
  obtain ⟨hh1, hh2⟩ := h.field_ordinary
  refine neverAccepts_of_body h.front_plain ?_
  rw [next_of_start hb]
  refine neverAccepts_sentence h.rest_plain hh1 hh2 h.terminator fun hterms => absurd hterms ?_
  exact not_termsPass_of_suffix (a := front ++ [c]) (by simp) (by simpa using h.terms)

/-- A star: the star of the sentence is a second one. -/
theorem change_body_to_star :
    NeverAccepts (front ++ 0x2A#8 :: (rest ++ [0x2A#8, h1, h2, e, 0x0A#8])) (sentenceReset false) := by
  obtain ⟨hchecks, -⟩ := (inBody_sentenceReset.feed h.front_plain).1.next_star
  have hsplit : rest ++ [0x2A#8, h1, h2, e, 0x0A#8] = (rest ++ [0x2A#8]) ++ [h1, h2, e, 0x0A#8] := by simp
  refine neverAccepts_of_body h.front_plain ?_
  rw [hsplit, neverAccepts_append]
  refine ⟨neverAccepts_of_no_terminator ?_ _, neverAccepts_of_dead ?_ ?_⟩
  · exact List.forall_mem_append.mpr ⟨fun d hd => classify_ne_terminator_of_body (h.rest_plain d hd), by decide⟩
  · exact (List.forall_mem_cons.mp h.tail_not_start).2
  · exact dead_of_second_star hchecks.busy hchecks.starred h.rest_plain

theorem change_body (hb : b ≠ c) :
    NeverAccepts (front ++ b :: (rest ++ [0x2A#8, h1, h2, e, 0x0A#8])) (sentenceReset false) := by
  by_cases hstart : classify b = .start
  · exact h.change_body_to_start hstart
  by_cases hterm : classify b = .terminator
  · exact neverAccepts_of_body h.front_plain (neverAccepts_of_dead h.rest_not_start (next_terminator_dead hterm))
  by_cases hstar : classify b = .star
  · obtain rfl := classify_eq_star_iff.mp hstar
    exact h.change_body_to_star
  · exact h.change_body_to_body (bodyByte_of_classify hstart hstar hterm) hb

end

end

end AcceptedSentence

/-! ## The change of one byte -/

theorem exists_split_of_lt {body : List Byte} {k : Nat} (h : k < body.length) :
    ∃ front c rest, body = front ++ c :: rest ∧ front.length = k :=
  ⟨body.take k, body[k], body.drop (k + 1), by simp, List.length_take_of_le h.le⟩

/-- An accepted sentence with one byte changed, a line feed after it, but for the two excepted changes (R144). -/
theorem AcceptedSentence.change_one {body : List Byte} {m h1 h2 e b : Byte} {k : Nat} (h : AcceptedSentence body h1 h2 e)
    (hm : classify m = .start) (hk : k < body.length + 5) (hne : (m :: (body ++ [0x2A#8, h1, h2, e]))[k]? ≠ some b)
    (hstart : ¬ (k = 0 ∧ classify b = .start)) (hterm : ¬ (k = body.length + 4 ∧ classify b = .terminator)) :
    NeverAccepts ((m :: (body ++ [0x2A#8, h1, h2, e])).set k b ++ [0x0A#8]) (sentenceReset true) := by
  cases k with
  | zero =>
    have hnever := h.change_start (b := b) fun hb => hstart ⟨rfl, hb⟩
    simpa using hnever
  | succ k =>
    rw [List.getElem?_cons_succ] at hne
    rw [List.set_cons_succ, List.cons_append]
    refine ⟨not_accepts_of_not_terminator (by simp [hm]), ?_⟩
    rw [next_of_start hm]
    obtain hlt | hge := lt_or_ge k body.length
    · obtain ⟨front, c, rest, rfl, rfl⟩ := exists_split_of_lt hlt
      have hb : b ≠ c := fun hbc => hne (by simp [hbc])
      simpa using h.change_body hb
    · obtain ⟨q, rfl⟩ := Nat.exists_eq_add_of_le hge
      have hq : q = 0 ∨ q = 1 ∨ q = 2 ∨ q = 3 := by omega
      obtain rfl | rfl | rfl | rfl := hq
      · have hb : b ≠ 0x2A#8 := fun hbc => hne (by simp [hbc])
        simpa using h.change_star hb
      · have hb : b ≠ h1 := fun hbc => hne (by simp [hbc])
        simpa using h.change_first_digit hb
      · have hb : b ≠ h2 := fun hbc => hne (by simp [hbc])
        simpa using h.change_second_digit hb
      · have hb : classify b ≠ .terminator := fun hbc => hterm ⟨rfl, hbc⟩
        simpa using h.change_terminator hb

/-- A run whose last result is FRAGMENT was accepted at its last byte. -/
theorem accepts_of_last_fragment {bytes : List Byte} {e : Byte} {s u : State} {r : Result}
    (hrun : performAll ((bytes ++ [e]).map Instr.decode) s = .next u) (hlast : u.results.getLast? = some r)
    (hr : r.status = .fragment) : (s.sentence.feed bytes).Accepts e := by
  obtain ⟨t, rs, ht, hsentence, -, -⟩ := performAll_decode bytes s
  obtain ⟨fifo', loaded, r', heff⟩ := exec_decode_effect e t.sentence t.fifo
  rw [List.map_append, performAll_append ht, List.map_singleton, performAll_cons (heff.exec_eq t rfl rfl)] at hrun
  obtain rfl := Host.Outcome.next.inj hrun
  obtain rfl : r' = r := by simpa using hlast
  rw [← hsentence]
  exact heff.fragment_iff.mp hr

/-- Settles O51: the accepted sentence has seven terms and its XOR in the field, which no other single byte keeps. -/
theorem singleByteChangeNeverAccepted : Obligations.SingleByteChangeNeverAccepted := by
  unfold Obligations.SingleByteChangeNeverAccepted
  intro s u v m h1 h2 e body p b r hidle hm hbody he hrun hlast hr hp hne hstart hterm hchanged
  have hbytes : m :: (body ++ [0x2A#8, h1, h2, e]) = m :: (body ++ [0x2A#8, h1, h2]) ++ [e] := by simp
  rw [hbytes] at hrun
  have haccepts := accepts_of_last_fragment hrun hlast hr
  rw [feed_cons, next_of_start (classify_of_start hm)] at haccepts
  have hsentence := acceptedSentence_of_accepts hbody haccepts
  have hnever := hsentence.change_one (classify_of_start hm) hp hne (by rwa [classify_eq_start_iff])
    (by rwa [classify_eq_terminator_iff])
  obtain ⟨t, rs, ht, -, hresults, hstatus⟩ :=
    performAll_decode ((m :: (body ++ [0x2A#8, h1, h2, e])).set p b ++ [0x0A#8]) s
  obtain rfl := Host.Outcome.next.inj (ht.symm.trans hchanged)
  rw [hresults, List.drop_left]
  exact hstatus (hidle ▸ hnever)

end Sys2Proof.Machine
end
